-- ==== Sys2Proof/Word.lean ====
section
/-! DEFINITION. The word types of the block: one byte of the bus (`20_memory.md` R72), the 16-bit timer
quantities (R71), and the packed word of an operation (`30_encoding.md` R101 to R103). -/

namespace Sys2Proof

/-- One bus datum: 8 bits (R72; parameter `DATA_BITS` of R8). -/
abbrev Byte := BitVec 8

/-- A 16-bit quantity: a VIA counter or latch (R71), or the `off` field of format P (R102). -/
abbrev Half := BitVec 16

/-- The packed word that selects an operation: 25 bits in format B, 26 in format P, 8 in format M
(R100), each held zero-extended in 32 bits. -/
abbrev OpWord := BitVec 32

end Sys2Proof
end

