-- ==== Sys2Proof/Config.lean ====
section
/-! DEFINITION. What an implementation of the block fixes: the named parameters of `00_scope.md` R8 that are
not per instance, and the answers of the oracles of R11 where the state's own list of answers has run out. -/

namespace Sys2Proof.Config

/-- The parameters of R8 that hold for the whole block. `BAUD` is per ACIA instance and stands in the
instance (`10_state.md` R30). No operation changes them; a statement quantifies over them (R8, "OPEN means
the model takes it as an argument"). Log entry 2. -/
structure Params where
  /-- `RXQ_CAP`: capacity of the ACIA receive queue, at least 1 (D18). -/
  rxqCap : Nat
  /-- `CTS_DCD_INVERT`: polarity of the CTS and DCD status bits against port readiness (D21). -/
  ctsDcdInvert : Bool
  /-- `TX_IRQ_SELECT`: the values of control bits[6:5] that select the transmit interrupt (D11). -/
  txIrqSelect : List (BitVec 2)
  /-- `IER_READ_BIT7`: bit 7 of a read of the VIA interrupt enable register (D32). -/
  ierReadBit7 : Bool
  deriving DecidableEq, Repr

/-- FREE VALUE (R11, U4; log entry 5): what `isReady()` of a port answers to the `n`-th question put
after the state's own list of answers has run out. -/
opaque portReady (port n : Nat) : Bool

/-- FREE VALUE (R11, U4; log entry 5): what `hasData()` of a port answers, as `portReady`. -/
opaque portHasData (port n : Nat) : Bool

/-- FREE VALUE (R11, U4; log entry 5): what `read()` of a port answers, a byte or absent, as `portReady`. -/
opaque portRead (port n : Nat) : Option Byte

end Sys2Proof.Config
end

