-- ==== Sys2Proof/Syntax.lean ====
section
/-! DEFINITION. The operations of the block as syntax: one constructor of `Instr` for each of the 68 rows of
`spec/opcode_table.json` (`30_encoding.md` R110), the types their operands have (R103), and the request by
which an outside agent invokes one (`00_scope.md` R10). -/

namespace Sys2Proof

/-- A peripheral reference: the `i`-th ACIA or the `i`-th VIA instance of the system (R103 `periph`;
`10_state.md` R26). There are exactly two chip types (U7). -/
inductive PeriphRef where
  | acia (i : Nat)
  | via (i : Nat)
  deriving DecidableEq, Repr

/-- An interrupt source identifier, `Peripheral(name) | Debug | Other(tag)` (R48, R288). -/
inductive Source where
  | peripheral (name : String)
  | debug
  | other (tag : String)
  deriving DecidableEq, Repr

/-- One bus access that the CPU engine makes during a step (R305). Address and value are the numbers the
engine presents; the router reduces them (R139, R72). -/
inductive Access where
  | read (addr : Nat)
  | write (addr v : Nat)
  deriving DecidableEq, Repr

/-- The operations of R110, in the order of `spec/opcode_table.json`. `inst` is the number of the ACIA or VIA
instance an operation is invoked on; the other operands are those of the operation's rule. -/
inductive Instr where
  /-- R140 -/
  | busRead (addr : Nat)
  /-- R141 -/
  | busWrite (addr v : Nat)
  /-- R172 -/
  | aciaStatusR (inst : Nat)
  /-- R171 -/
  | aciaCtrlW (inst : Nat) (v : Byte)
  /-- R174 -/
  | aciaRdrR (inst : Nat)
  /-- R173 -/
  | aciaTdrW (inst : Nat) (v : Byte)
  /-- R182 -/
  | aciaUndefR (inst : Nat) (off : Half)
  /-- R183 -/
  | aciaUndefW (inst : Nat) (off : Half) (v : Byte)
  /-- R211 -/
  | viaOrbR (inst : Nat)
  /-- R212 -/
  | viaOrbW (inst : Nat) (d : Byte)
  /-- R213 -/
  | viaOraR (inst : Nat)
  /-- R214 -/
  | viaOraW (inst : Nat) (d : Byte)
  /-- R215 -/
  | viaDdrbR (inst : Nat)
  /-- R216 -/
  | viaDdrbW (inst : Nat) (d : Byte)
  /-- R217 -/
  | viaDdraR (inst : Nat)
  /-- R218 -/
  | viaDdraW (inst : Nat) (d : Byte)
  /-- R219 -/
  | viaT1clR (inst : Nat)
  /-- R220 -/
  | viaT1clW (inst : Nat) (d : Byte)
  /-- R221 -/
  | viaT1chR (inst : Nat)
  /-- R222 -/
  | viaT1chW (inst : Nat) (d : Byte)
  /-- R223 -/
  | viaT1llR (inst : Nat)
  /-- R224 -/
  | viaT1llW (inst : Nat) (d : Byte)
  /-- R225 -/
  | viaT1lhR (inst : Nat)
  /-- R226 -/
  | viaT1lhW (inst : Nat) (d : Byte)
  /-- R227 -/
  | viaT2clR (inst : Nat)
  /-- R228 -/
  | viaT2clW (inst : Nat) (d : Byte)
  /-- R229 -/
  | viaT2chR (inst : Nat)
  /-- R230 -/
  | viaT2chW (inst : Nat) (d : Byte)
  /-- R231 -/
  | viaSrR (inst : Nat)
  /-- R232 -/
  | viaSrW (inst : Nat) (d : Byte)
  /-- R233 -/
  | viaAcrR (inst : Nat)
  /-- R234 -/
  | viaAcrW (inst : Nat) (d : Byte)
  /-- R235 -/
  | viaPcrR (inst : Nat)
  /-- R236 -/
  | viaPcrW (inst : Nat) (d : Byte)
  /-- R237 -/
  | viaIfrR (inst : Nat)
  /-- R238 -/
  | viaIfrW (inst : Nat) (d : Byte)
  /-- R239 -/
  | viaIerR (inst : Nat)
  /-- R240 -/
  | viaIerW (inst : Nat) (d : Byte)
  /-- R241 -/
  | viaOranhR (inst : Nat)
  /-- R242 -/
  | viaOranhW (inst : Nat) (d : Byte)
  /-- R243 -/
  | viaUndefR (inst : Nat) (off : Half)
  /-- R244 -/
  | viaUndefW (inst : Nat) (off : Half) (d : Byte)
  /-- R130 -/
  | rtrConfigRam (start size : Nat)
  /-- R131 -/
  | rtrLoadRom (data : List Byte) (start : Nat)
  /-- R132 -/
  | rtrMapIo (start stop : Nat) (periph : PeriphRef)
  /-- R135 -/
  | rtrClearRam
  /-- R133 -/
  | hubRegister (periph : PeriphRef) (start stop : Nat) (name : String)
  /-- R134 -/
  | hubUnregister (name : String)
  /-- R136 -/
  | hubTick (cycles : Nat)
  /-- R137 -/
  | hubCollect
  /-- R184 -/
  | aciaTick (inst cycles : Nat)
  /-- R181 -/
  | aciaReset (inst : Nat)
  /-- R178 -/
  | aciaIrq (inst : Nat)
  /-- R247 -/
  | viaTick (inst cycles : Nat)
  /-- R249 -/
  | viaReset (inst : Nat)
  /-- R248 -/
  | viaIrq (inst : Nat)
  /-- R280 -/
  | aggTrigIrq (source : Source)
  /-- R281 -/
  | aggTrigNmi (source : Source)
  /-- R282 -/
  | aggClrIrq (source : Source)
  /-- R283 -/
  | aggClrNmi (source : Source)
  /-- R284 -/
  | aggUpdate (activeNames : List String)
  /-- R285 -/
  | aggReset
  /-- R286 -/
  | aggIrqPend
  /-- R287 -/
  | aggNmiPend
  /-- R305 -/
  | sysStep (accesses : List Access) (cycles : Nat)
  /-- R308 -/
  | sysReset
  /-- R306 -/
  | sysAttach (name : String) (start stop : Nat) (periph : PeriphRef)
  /-- R307 -/
  | sysDetach (name : String)
  deriving DecidableEq, Repr

/-- The three operation formats of R100. -/
inductive Format where
  /-- bus access, 25 bits (R101) -/
  | b
  /-- peripheral register access, 26 bits (R102) -/
  | p
  /-- management operation, an 8-bit selector (R103) -/
  | m
  deriving DecidableEq, Repr

/-- The operands of an operation that no word packs (R103, "named values ... not packed"), each under its name
in the operation's rule, and the instance a format P or `ACIA.*`/`VIA.*` operation is invoked on. An operation
reads the fields its rule names and no other. -/
structure Operands where
  inst : Nat := 0
  start : Nat := 0
  stop : Nat := 0
  size : Nat := 0
  data : List Byte := []
  periph : PeriphRef := .acia 0
  name : String := ""
  cycles : Nat := 0
  source : Source := .debug
  activeNames : List String := []
  accesses : List Access := []
  deriving DecidableEq, Repr

/-- One operation as an outside agent presents it: its format, its packed word, and its unpacked operands. -/
structure Request where
  fmt : Format
  word : OpWord
  args : Operands := {}
  deriving DecidableEq, Repr

/-- Why a word names no operation (R117, U8). -/
inductive DecodeError where
  /-- a format B or M word with a bit set above its 25 or 8 bits -/
  | wordTooWide
  /-- a format P word with a chip type other than 0 or 1 (U8) -/
  | unknownChip
  /-- a management selector R110 does not list (R117) -/
  | unknownSelector (sel : Byte)
  deriving DecidableEq, Repr

end Sys2Proof
end

