-- ==== Sys2Proof/WellFormed.lean ====
section
/-! DEFINITION. When an `Instr` is one that a packed word of `30_encoding.md` can carry: the operands of format B
fit their fields (R101), and a catch-all register access has an offset no register row of its chip takes (R102).
Every other operand is a number, string, list or reference of R103 and is unrestricted: a range whose `start`
exceeds its `stop` is a well-formed operand that the operation answers with an error (R323). -/

namespace Sys2Proof

/-- A bus address fits the `addr` field of format B (R101). -/
def fitsAddr (addr : Nat) : Bool := decide (addr < 2 ^ 16)

/-- A bus datum fits the `data` field of format B (R101). -/
def fitsData (v : Nat) : Bool := decide (v < 2 ^ 8)

/-- An offset that no register row of the chip takes, so that the chip's catch-all row applies (R102):
`span` is 2 for an ACIA and 16 for a VIA. -/
def beyondSpan (span : Nat) (off : Half) : Bool := decide (span ≤ off.toNat)

/-- Well-formed: some packed word and operands stand for it. -/
def Instr.wf : Instr → Bool
  | .busRead addr => fitsAddr addr
  | .busWrite addr v => fitsAddr addr && fitsData v
  | .aciaUndefR _ off => beyondSpan 2 off
  | .aciaUndefW _ off _ => beyondSpan 2 off
  | .viaUndefR _ off => beyondSpan 16 off
  | .viaUndefW _ off _ => beyondSpan 16 off
  | .aciaStatusR _ | .aciaCtrlW _ _ | .aciaRdrR _ | .aciaTdrW _ _ => true
  | .viaOrbR _ | .viaOrbW _ _ => true
  | .viaOraR _ | .viaOraW _ _ => true
  | .viaDdrbR _ | .viaDdrbW _ _ => true
  | .viaDdraR _ | .viaDdraW _ _ => true
  | .viaT1clR _ | .viaT1clW _ _ => true
  | .viaT1chR _ | .viaT1chW _ _ => true
  | .viaT1llR _ | .viaT1llW _ _ => true
  | .viaT1lhR _ | .viaT1lhW _ _ => true
  | .viaT2clR _ | .viaT2clW _ _ => true
  | .viaT2chR _ | .viaT2chW _ _ => true
  | .viaSrR _ | .viaSrW _ _ => true
  | .viaAcrR _ | .viaAcrW _ _ => true
  | .viaPcrR _ | .viaPcrW _ _ => true
  | .viaIfrR _ | .viaIfrW _ _ => true
  | .viaIerR _ | .viaIerW _ _ => true
  | .viaOranhR _ | .viaOranhW _ _ => true
  | .rtrConfigRam _ _ | .rtrLoadRom _ _ | .rtrMapIo _ _ _ | .rtrClearRam => true
  | .hubRegister _ _ _ _ | .hubUnregister _ | .hubTick _ | .hubCollect => true
  | .aciaTick _ _ | .aciaReset _ | .aciaIrq _ | .viaTick _ _ | .viaReset _ | .viaIrq _ => true
  | .aggTrigIrq _ | .aggTrigNmi _ | .aggClrIrq _ | .aggClrNmi _ => true
  | .aggUpdate _ | .aggReset | .aggIrqPend | .aggNmiPend => true
  | .sysStep _ _ | .sysReset | .sysAttach _ _ _ _ | .sysDetach _ => true

end Sys2Proof
end

