-- ==== Sys2Proof/Decode.lean ====
section
/-! DEFINITION. From the word of an operation to its `Instr` and back (`30_encoding.md` R100 to R103, R110). The
decoder is total: every request is an operation or a rejection by name. The encoder writes the words of R101 to
R103. The words are the spec's own packing (D46); the format comes with the request, because a format B and a
format P word may be the same number. -/

namespace Sys2Proof

/-- The field of `w` from bit `lo`, `n` bits long (R13: `w[lo+n-1 : lo]`). -/
def wordField (w : OpWord) (lo n : Nat) : BitVec n := w.extractLsb' lo n

/-- Format B (R101): `w` in bit 24, `addr` in bits 23:8, `data` in bits 7:0. A read does not look at `data`. -/
def decodeB (w : OpWord) : Except DecodeError Instr :=
  let addr := (wordField w 8 16).toNat
  if wordField w 25 7 != 0 then .error .wordTooWide
  else if w.getLsbD 24 then .ok (.busWrite addr (wordField w 0 8).toNat)
  else .ok (.busRead addr)

/-- The ACIA rows of format P (R111, R170), with the catch-alls for offsets beyond 1. -/
def decodeAcia (write : Bool) (inst : Nat) (off : Half) (d : Byte) : Instr :=
  match write, off.toNat with
  | false, 0 => .aciaStatusR inst
  | true, 0 => .aciaCtrlW inst d
  | false, 1 => .aciaRdrR inst
  | true, 1 => .aciaTdrW inst d
  | false, _ => .aciaUndefR inst off
  | true, _ => .aciaUndefW inst off d

/-- The VIA read rows of format P (R112, R210), with the catch-all for offsets beyond `0x0F`. -/
def decodeViaRead (inst : Nat) (off : Half) : Instr :=
  match off.toNat with
  | 0 => .viaOrbR inst
  | 1 => .viaOraR inst
  | 2 => .viaDdrbR inst
  | 3 => .viaDdraR inst
  | 4 => .viaT1clR inst
  | 5 => .viaT1chR inst
  | 6 => .viaT1llR inst
  | 7 => .viaT1lhR inst
  | 8 => .viaT2clR inst
  | 9 => .viaT2chR inst
  | 10 => .viaSrR inst
  | 11 => .viaAcrR inst
  | 12 => .viaPcrR inst
  | 13 => .viaIfrR inst
  | 14 => .viaIerR inst
  | 15 => .viaOranhR inst
  | _ => .viaUndefR inst off

/-- The VIA write rows of format P (R112, R210), with the catch-all for offsets beyond `0x0F`. -/
def decodeViaWrite (inst : Nat) (off : Half) (d : Byte) : Instr :=
  match off.toNat with
  | 0 => .viaOrbW inst d
  | 1 => .viaOraW inst d
  | 2 => .viaDdrbW inst d
  | 3 => .viaDdraW inst d
  | 4 => .viaT1clW inst d
  | 5 => .viaT1chW inst d
  | 6 => .viaT1llW inst d
  | 7 => .viaT1lhW inst d
  | 8 => .viaT2clW inst d
  | 9 => .viaT2chW inst d
  | 10 => .viaSrW inst d
  | 11 => .viaAcrW inst d
  | 12 => .viaPcrW inst d
  | 13 => .viaIfrW inst d
  | 14 => .viaIerW inst d
  | 15 => .viaOranhW inst d
  | _ => .viaUndefW inst off d

/-- Format P (R102): the chip type in the bits from 25 up, of which only 0 (ACIA) and 1 (VIA) exist (U8); `w` in
bit 24, `off` in bits 23:8, `data` in bits 7:0. A read does not look at `data`. -/
def decodeP (w : OpWord) (inst : Nat) : Except DecodeError Instr :=
  let off := wordField w 8 16
  let d := wordField w 0 8
  let write := w.getLsbD 24
  match (wordField w 25 7).toNat with
  | 0 => .ok (decodeAcia write inst off d)
  | 1 => .ok (if write then decodeViaWrite inst off d else decodeViaRead inst off)
  | _ => .error .unknownChip

/-- Format M (R103): the selectors of R110, each taking its operands by name. -/
def decodeM (w : OpWord) (a : Operands) : Except DecodeError Instr :=
  if wordField w 8 24 != 0 then .error .wordTooWide
  else match (wordField w 0 8).toNat with
  | 0x00 => .ok (.rtrConfigRam a.start a.size)
  | 0x01 => .ok (.rtrLoadRom a.data a.start)
  | 0x02 => .ok (.rtrMapIo a.start a.stop a.periph)
  | 0x03 => .ok .rtrClearRam
  | 0x04 => .ok (.hubRegister a.periph a.start a.stop a.name)
  | 0x05 => .ok (.hubUnregister a.name)
  | 0x06 => .ok (.hubTick a.cycles)
  | 0x07 => .ok .hubCollect
  | 0x10 => .ok (.aciaTick a.inst a.cycles)
  | 0x11 => .ok (.aciaReset a.inst)
  | 0x12 => .ok (.aciaIrq a.inst)
  | 0x18 => .ok (.viaTick a.inst a.cycles)
  | 0x19 => .ok (.viaReset a.inst)
  | 0x1A => .ok (.viaIrq a.inst)
  | 0x20 => .ok (.aggTrigIrq a.source)
  | 0x21 => .ok (.aggTrigNmi a.source)
  | 0x22 => .ok (.aggClrIrq a.source)
  | 0x23 => .ok (.aggClrNmi a.source)
  | 0x24 => .ok (.aggUpdate a.activeNames)
  | 0x25 => .ok .aggReset
  | 0x26 => .ok .aggIrqPend
  | 0x27 => .ok .aggNmiPend
  | 0x30 => .ok (.sysStep a.accesses a.cycles)
  | 0x31 => .ok .sysReset
  | 0x32 => .ok (.sysAttach a.name a.start a.stop a.periph)
  | 0x33 => .ok (.sysDetach a.name)
  | _ => .error (.unknownSelector (wordField w 0 8))

/-- The decoder: every request is an operation, or is rejected by name. -/
def decode (r : Request) : Except DecodeError Instr :=
  match r.fmt with
  | .b => decodeB r.word
  | .p => decodeP r.word r.args.inst
  | .m => decodeM r.word r.args

/-- A format B word (R101). The data field of a read is written as 0. -/
def packB (write : Bool) (addr data : Nat) : OpWord :=
  BitVec.ofNat 32 (write.toNat * 2 ^ 24 + addr * 2 ^ 8 + data)

/-- A format P word (R102): `c << 25 | w << 24 | off << 8 | data`. The data field of a read is written as 0. -/
def packP (chip write : Bool) (off : Nat) (d : Byte) : OpWord :=
  BitVec.ofNat 32 (chip.toNat * 2 ^ 25 + write.toNat * 2 ^ 24 + off * 2 ^ 8 + d.toNat)

/-- A format P request on instance `inst`. -/
def requestP (chip write : Bool) (inst off : Nat) (d : Byte) : Request :=
  { fmt := .p, word := packP chip write off d, args := { inst := inst } }

/-- A format M request: the selector as the word, the operands beside it. -/
def requestM (sel : Nat) (args : Operands) : Request :=
  { fmt := .m, word := BitVec.ofNat 32 sel, args := args }

/-- The encoder: the request that stands for an operation (R101 to R103, R110). -/
def encode : Instr → Request
  | .busRead addr => { fmt := .b, word := packB false addr 0 }
  | .busWrite addr v => { fmt := .b, word := packB true addr v }
  | .aciaStatusR i => requestP false false i 0 0
  | .aciaCtrlW i v => requestP false true i 0 v
  | .aciaRdrR i => requestP false false i 1 0
  | .aciaTdrW i v => requestP false true i 1 v
  | .aciaUndefR i off => requestP false false i off.toNat 0
  | .aciaUndefW i off v => requestP false true i off.toNat v
  | .viaOrbR i => requestP true false i 0 0
  | .viaOrbW i d => requestP true true i 0 d
  | .viaOraR i => requestP true false i 1 0
  | .viaOraW i d => requestP true true i 1 d
  | .viaDdrbR i => requestP true false i 2 0
  | .viaDdrbW i d => requestP true true i 2 d
  | .viaDdraR i => requestP true false i 3 0
  | .viaDdraW i d => requestP true true i 3 d
  | .viaT1clR i => requestP true false i 4 0
  | .viaT1clW i d => requestP true true i 4 d
  | .viaT1chR i => requestP true false i 5 0
  | .viaT1chW i d => requestP true true i 5 d
  | .viaT1llR i => requestP true false i 6 0
  | .viaT1llW i d => requestP true true i 6 d
  | .viaT1lhR i => requestP true false i 7 0
  | .viaT1lhW i d => requestP true true i 7 d
  | .viaT2clR i => requestP true false i 8 0
  | .viaT2clW i d => requestP true true i 8 d
  | .viaT2chR i => requestP true false i 9 0
  | .viaT2chW i d => requestP true true i 9 d
  | .viaSrR i => requestP true false i 10 0
  | .viaSrW i d => requestP true true i 10 d
  | .viaAcrR i => requestP true false i 11 0
  | .viaAcrW i d => requestP true true i 11 d
  | .viaPcrR i => requestP true false i 12 0
  | .viaPcrW i d => requestP true true i 12 d
  | .viaIfrR i => requestP true false i 13 0
  | .viaIfrW i d => requestP true true i 13 d
  | .viaIerR i => requestP true false i 14 0
  | .viaIerW i d => requestP true true i 14 d
  | .viaOranhR i => requestP true false i 15 0
  | .viaOranhW i d => requestP true true i 15 d
  | .viaUndefR i off => requestP true false i off.toNat 0
  | .viaUndefW i off d => requestP true true i off.toNat d
  | .rtrConfigRam start size => requestM 0x00 { start := start, size := size }
  | .rtrLoadRom data start => requestM 0x01 { data := data, start := start }
  | .rtrMapIo start stop p => requestM 0x02 { start := start, stop := stop, periph := p }
  | .rtrClearRam => requestM 0x03 {}
  | .hubRegister p start stop name => requestM 0x04 { periph := p, start := start, stop := stop, name := name }
  | .hubUnregister name => requestM 0x05 { name := name }
  | .hubTick c => requestM 0x06 { cycles := c }
  | .hubCollect => requestM 0x07 {}
  | .aciaTick i c => requestM 0x10 { inst := i, cycles := c }
  | .aciaReset i => requestM 0x11 { inst := i }
  | .aciaIrq i => requestM 0x12 { inst := i }
  | .viaTick i c => requestM 0x18 { inst := i, cycles := c }
  | .viaReset i => requestM 0x19 { inst := i }
  | .viaIrq i => requestM 0x1A { inst := i }
  | .aggTrigIrq src => requestM 0x20 { source := src }
  | .aggTrigNmi src => requestM 0x21 { source := src }
  | .aggClrIrq src => requestM 0x22 { source := src }
  | .aggClrNmi src => requestM 0x23 { source := src }
  | .aggUpdate names => requestM 0x24 { activeNames := names }
  | .aggReset => requestM 0x25 {}
  | .aggIrqPend => requestM 0x26 {}
  | .aggNmiPend => requestM 0x27 {}
  | .sysStep accs c => requestM 0x30 { accesses := accs, cycles := c }
  | .sysReset => requestM 0x31 {}
  | .sysAttach name start stop p => requestM 0x32 { name := name, start := start, stop := stop, periph := p }
  | .sysDetach name => requestM 0x33 { name := name }

/-- The format that a row's number of bits names: 25 bits are format B, 26 are format P and 8 are format M (R100).
The opcode table's 25 and 26 bits are both 32 in whole bytes; 32 is read as format P, the format of 40 of those
42 rows (log entry 6). -/
def formatOfBits (nbits : Nat) : Format :=
  if nbits ≤ 8 then .m else if nbits = 25 then .b else .p

/-- A row's word as the request an agent presents, every operand that no bit packs at zero, empty, or the first. -/
def tableRequest (nbits w : Nat) : Request :=
  { fmt := formatOfBits nbits, word := BitVec.ofNat 32 (w % 2 ^ nbits) }

/-- The instruction the decoder reads from a row's word (none where it rejects it). -/
def decodeTableWord (nbits w : Nat) : Option Instr :=
  match decode (tableRequest nbits w) with
  | .ok i => some i
  | .error _ => none

end Sys2Proof
end

