-- ==== Sys2Proof/Machine/Operands.lean ====
section
/-! DEFINITION. Operand forms and arithmetic laws: how an address, an offset, a written byte or a cycle count is
taken apart and combined (`30_encoding.md` R105 to R109, R121, R122; `40_router.md` R139, R146; `41_acia.md` R179,
R180). Nothing here touches the state. -/

namespace Sys2Proof.Machine

/-- Address reduction (R139): `addr & 0xFFFF`. -/
def reduceAddr (addr : Nat) : Nat := addr % 0x10000

/-- Datum reduction (R72): `v & 0xFF`. -/
def reduceByte (v : Nat) : Byte := BitVec.ofNat 8 v

/-- An inclusive range covers an address (R146). -/
def covers (start stop a : Nat) : Bool := decide (start ≤ a) && decide (a ≤ stop)

/-- Two inclusive ranges intersect (R146); ranges that only touch do not. -/
def intersects (s1 e1 s2 e2 : Nat) : Bool := decide (s1 ≤ e2) && decide (s2 ≤ e1)

/-- The low byte of a 16-bit timer quantity, at the lower offset (R71). -/
def lowByte (n : Half) : Byte := n.extractLsb' 0 8

/-- The high byte of a 16-bit timer quantity, at the higher offset (R71). -/
def highByte (n : Half) : Byte := n.extractLsb' 8 8

/-- `n[7:0] <- d`. -/
def withLowByte (n : Half) (d : Byte) : Half := highByte n ++ d

/-- `n[15:8] <- d`. -/
def withHighByte (n : Half) (d : Byte) : Half := d ++ lowByte n

/-- VIA port write operand (R109): `(old & ~m) | (d & m)` under the direction mask `m`. -/
def portMerge (old mask d : Byte) : Byte := (old &&& ~~~mask) ||| (d &&& mask)

/-- The low seven bits of a byte written to the VIA's flag or enable register (R107, R108). -/
def low7 (d : Byte) : BitVec 7 := d.extractLsb' 0 7

/-- VIA interrupt-enable write operand (R107): bit 7 selects set mode or clear mode. -/
def ierWriteValue (ier : BitVec 7) (d : Byte) : BitVec 7 :=
  if d.getLsbD 7 then ier ||| low7 d else ier &&& ~~~low7 d

/-- VIA interrupt-flag write operand (R108): write-one-to-clear; bit 7 of the byte is ignored. -/
def ifrWriteValue (ifr : BitVec 7) (d : Byte) : BitVec 7 := ifr &&& ~~~low7 d

/-- The position of the Timer 1 flag in `ifr` and `ier` (R46, D27). -/
def t1Bit : Nat := 6

/-- The position of the Timer 2 flag in `ifr` and `ier` (R46, D27). -/
def t2Bit : Nat := 5

/-- The seven-bit mask with one bit set. -/
def flagMask (k : Nat) : BitVec 7 := BitVec.twoPow 7 k

/-- `ifr[k] <- 1`. -/
def setFlag (ifr : BitVec 7) (k : Nat) : BitVec 7 := ifr ||| flagMask k

/-- `ifr[k] <- 0`. -/
def clearFlag (ifr : BitVec 7) (k : Nat) : BitVec 7 := ifr &&& ~~~flagMask k

/-- `control[1:0]`, the clock-divide select of the ACIA control byte (R31). -/
def divideSelect (control : Byte) : BitVec 2 := control.extractLsb' 0 2

/-- `control[6:5]`, the transmitter control of the ACIA control byte (R31). -/
def transmitControl (control : Byte) : BitVec 2 := control.extractLsb' 5 2

/-- `control[7]`, the receiver-interrupt enable of the ACIA control byte (R31). -/
def receiveIrqEnabled (control : Byte) : Bool := control.getLsbD 7

/-- The value of `control[1:0]` that means master reset (R31, R115). -/
def isMasterReset (v : Byte) : Bool := divideSelect v == 0b11#2

/-- `Ratio(sel)` (R179, D10). It is never asked for `0b11`, which no stored control byte holds (R185). -/
def divideRatio (sel : BitVec 2) : Nat :=
  if sel = 0b00#2 then 1 else if sel = 0b01#2 then 16 else 64

/-- `BUS_HZ` (R8): the fixed 1 MHz bus clock of the bit-time formula. -/
def busHz : Nat := 1000000

/-- `BITS_PER_CHAR` (R8): bit times charged for one character. -/
def bitsPerChar : Nat := 10

/-- `CPB(sel)` (R179, R122): `floor(1_000_000 * Ratio(sel) / BAUD)`, one floor at the end. -/
def cyclesPerBitOf (baud : Nat) (sel : BitVec 2) : Nat := busHz * divideRatio sel / baud

/-- Character time (R180): `10 * cyclesPerBit`. -/
def charCyclesOf (cyclesPerBit : Nat) : Nat := bitsPerChar * cyclesPerBit

/-- A countdown of `n` reduced by `c` cycles (R121 c): the difference is a mathematical integer compared with 0;
`none` when it is at or below 0 (the expiry, its overshoot discarded), and otherwise what is left. -/
def countdown (n c : Nat) : Option Nat :=
  let d : Int := (n : Int) - (c : Int)
  if d ≤ 0 then none else some d.toNat

/-- What a read of an unmapped address (R145) or of an undefined register offset (R113) returns. -/
def openBus : Byte := 0xFF#8

end Sys2Proof.Machine
end

