-- ==== Sys2Proof/Machine/Devices.lean ====
section
/-! DEFINITION. The records of `10_state.md`: the router's regions (R23 to R27), the ACIA (R30), the VIA (R40), the
aggregator (R48); what the outside world gives and takes (R11, R14); and the records as they stand at construction
(R53, R54). -/

namespace Sys2Proof.Machine

/-- The contents of a RAM block as (address, byte) pairs in one canonical form: addresses strictly rising, no
entry equal to what an unlisted address reads as. -/
abbrev Memory := List Host.Cell

/-- What an address that the list does not hold reads as: RAM is zero-initialised (R24, R371). -/
def Memory.unlisted : Byte := 0x00#8

/-- The canonical form of a memory. -/
abbrev Memory.wf (m : Memory) : Prop :=
  m.Pairwise (fun x y => x.1 < y.1) ∧ ∀ c ∈ m, c.2 ≠ Memory.unlisted

/-- RAMBlock (R24): it covers `base` to `base + size - 1`. The bytes are kept by absolute address, so that
`bytes[a - base]` of R106 is the entry of `a`. -/
structure RamBlock where
  base : Nat
  size : Nat
  bytes : Memory
  deriving DecidableEq, Repr

/-- ROMBlock (R25): an image, which covers `base` to `base + len - 1`. -/
structure RomBlock where
  base : Nat
  bytes : List Byte
  deriving DecidableEq, Repr

/-- IO region of the memory router (R26); `stop` is the inclusive `end`. -/
structure IoRegion where
  start : Nat
  stop : Nat
  periph : PeriphRef
  deriving DecidableEq, Repr

/-- The memory router's regions (R23). The two finite sets are kept as lists that rise by start address, so that
equal sets are equal lists (log entry 7). -/
structure Router where
  ram : Option RamBlock
  roms : List RomBlock
  ios : List IoRegion
  deriving DecidableEq, Repr

/-- PeripheralBinding of the hub (R27). -/
structure Binding where
  name : String
  start : Nat
  stop : Nat
  periph : PeriphRef
  deriving DecidableEq, Repr

/-- The peripheral hub (R27): its bindings, kept sorted by start address. -/
structure Hub where
  bindings : List Binding
  deriving DecidableEq, Repr

/-- One ACIA instance (R30), field by field. `fe`, `ovrn` and `pe` are one bit each; `port` is the number of the
bound serial port, or none. -/
structure Acia where
  control : Byte
  tdr : Byte
  rdr : Byte
  rxq : List Byte
  rxShift : Byte
  fe : Bool
  ovrn : Bool
  pe : Bool
  txActive : Bool
  txCount : Nat
  rxActive : Bool
  rxCount : Nat
  baud : Nat
  cyclesPerBit : Nat
  port : Option Nat
  deriving DecidableEq, Repr

/-- One VIA instance (R40), field by field. -/
structure Via where
  orb : Byte
  ora : Byte
  ddrb : Byte
  ddra : Byte
  t1c : Half
  t1l : Half
  t1run : Bool
  t2c : Half
  t2run : Bool
  sr : Byte
  acr : Byte
  pcr : Byte
  ifr : BitVec 7
  ier : BitVec 7
  deriving DecidableEq, Repr

/-- The interrupt aggregator (R48): two finite sets of source identifiers, each a list without repeats. -/
structure Agg where
  irq : List Source
  nmi : List Source
  deriving DecidableEq, Repr

/-- The MODEL's own record of the oracle's answers (R11, U4; log entry 5): the answers the serial ports will give
to the next questions of each kind, in the order asked, and how many questions were put after a list ran out. -/
structure Env where
  ready : List Bool
  hasData : List Bool
  reads : List (Option Byte)
  asked : Nat
  deriving DecidableEq, Repr

/-- An output event, `emit X` of R14: a call on an external collaborator. -/
inductive Event where
  /-- `port.write(b)` of the numbered serial port (R175, R186) -/
  | portWrite (port : Nat) (b : Byte)
  /-- `cpu.triggerIRQ()` (R289) -/
  | cpuTriggerIrq
  /-- `cpu.triggerNMI()` (R289) -/
  | cpuTriggerNmi
  /-- `cpu.clearIRQ()` (R289) -/
  | cpuClearIrq
  /-- `cpu.reset()` (R308) -/
  | cpuReset
  deriving DecidableEq, Repr

/-- The errors of the block (R321 to R323). Each goes to the host that called the operation; none is a fault
(`93_implementation_defined.md`: nothing in the block is fault or stuck). -/
inductive OpError where
  | addressConflict (newStart newStop oldStart oldStop : Nat)
  | duplicateName (name : String)
  | invalidRange (start stop : Nat)
  deriving DecidableEq, Repr

/-- The MODEL's own record of what the last operation returned to its caller (R14 `return v`, `raise E`). -/
inductive Reply where
  /-- the operation returns nothing -/
  | unit
  /-- a byte: bus and register reads -/
  | byte (b : Byte)
  /-- a truth value: `ACIA.IRQ`, `VIA.IRQ`, `AGG.IRQPEND`, `AGG.NMIPEND` -/
  | bool (b : Bool)
  /-- a list of binding names: `HUB.COLLECT` -/
  | names (l : List String)
  /-- `Halted` of `SYS.STEP` (R305), with the bytes the engine's reads were given, in order -/
  | halted (reads : List Byte)
  /-- `Ran(c)` of `SYS.STEP` (R305), with the bytes the engine's reads were given, in order -/
  | ran (cycles : Nat) (reads : List Byte)
  /-- the operation ended with an error and changed nothing (R14 `raise`) -/
  | error (e : OpError)
  deriving DecidableEq, Repr

/-- The parameters at the values R8 gives them ("decided" or default): log entry 2. -/
def defaultParams : Config.Params :=
  { rxqCap := 1, ctsDcdInvert := false, txIrqSelect := [0b01#2], ierReadBit7 := true }

/-- An ACIA as constructed (R53) with its two construction parameters: every other field at the value R54 gives. -/
def aciaFresh (baud : Nat) (port : Option Nat) : Acia :=
  { control := 0x00#8, tdr := 0x00#8, rdr := 0x00#8, rxq := [], rxShift := 0x00#8
    fe := false, ovrn := false, pe := false
    txActive := false, txCount := 0, rxActive := false, rxCount := 0
    baud := baud, cyclesPerBit := cyclesPerBitOf baud 0b00#2, port := port }

/-- A VIA as constructed and as reset (R54, R249). -/
def viaFresh : Via :=
  { orb := 0x00#8, ora := 0x00#8, ddrb := 0x00#8, ddra := 0x00#8
    t1c := 0x0000#16, t1l := 0x0000#16, t1run := false
    t2c := 0x0000#16, t2run := false
    sr := 0x00#8, acr := 0x00#8, pcr := 0x00#8
    ifr := 0#7, ier := 0#7 }

/-- The router as constructed: empty (R53). -/
def routerFresh : Router := { ram := none, roms := [], ios := [] }

/-- The ACIA instances of `State.reset` (log entry 3). -/
def constructedAcias : List Acia := [aciaFresh 9600 none]

/-- The VIA instances of `State.reset` (log entry 3). -/
def constructedVias : List Via := [viaFresh]

end Sys2Proof.Machine
end

