-- ==== Sys2Proof/Machine/State.lean ====
section
/-! DEFINITION. The machine's state, why a step can stop, and the state at construction (`10_state.md`). -/

namespace Sys2Proof.Machine

/-- Why the machine would stop with a fault. It has no constructor: `93_implementation_defined.md`, part 1,
"Nothing in the block is `fault` or `stuck`", and R320, "All conditions above are local and non-fatal at
runtime". An empty type is safe: nothing can be claimed of a fault that no step answers. -/
inductive Fault where
  deriving DecidableEq, Repr

/-- Why a request has no meaning. -/
inductive Refusal where
  /-- Raised by an arm of `exec` that has no meaning yet (none is left). Safe: the model stops where the hardware
  goes on. -/
  | notModelled (mnemonic : String)
  /-- Raised by `step` for a word that names no operation: "A selector `sel` not listed in rule R110 names no
  operation; a model's decoder refuses it" (R117, U8). Safe. -/
  | undecodable (e : DecodeError)
  /-- Raised by an operation whose operand refers to a peripheral instance that the system was not built with: no
  agent can invoke it (R302, "already-constructed peripheral instances"). Safe: log entry 4. -/
  | noSuchPeripheral (p : PeriphRef)
  deriving DecidableEq, Repr

/-- Everything the spec gives the machine (`10_state.md`), and after it the model's own fields: the parameters
(R8), the oracle's answers (R11), the operations the agents invoke next (R10), what the last operation returned,
and the output events so far, oldest first (R14). -/
structure State where
  /-- the memory router (R23) -/
  rtr : Router
  /-- the peripheral hub (R27) -/
  hub : Hub
  /-- the ACIA instances (R30) -/
  acias : List Acia
  /-- the VIA instances (R40) -/
  vias : List Via
  /-- the interrupt aggregator (R48) -/
  agg : Agg
  /-- the parameters of R8; log entry 2 -/
  params : Config.Params
  /-- the oracle's answers (R11); log entry 5 -/
  env : Env
  /-- the operations the outside agents invoke next, the first of them first (R10, R82); log entry 1 -/
  requests : List Request
  /-- what the last operation returned (R14); log entry 8 -/
  reply : Reply
  /-- the output events emitted so far, oldest first (R14); log entry 8 -/
  events : List Event
  deriving DecidableEq, Repr

/-- The machine right after construction (R53): router and hub empty, every peripheral and the aggregator at the
reset values of R54. The two instances and `BAUD` 9600 are log entry 3; the parameters are log entry 2. -/
def State.reset : State :=
  { rtr := routerFresh
    hub := { bindings := [] }
    acias := constructedAcias
    vias := constructedVias
    agg := { irq := [], nmi := [] }
    params := defaultParams
    env := { ready := [], hasData := [], reads := [], asked := 0 }
    requests := []
    reply := .unit
    events := [] }

end Sys2Proof.Machine
end

