-- ==== Sys2Proof/Machine/Flags.lean ====
section
/-! DEFINITION. Every status flag the block computes (`10_state.md` R50): the ACIA status byte (R32, R172) and
interrupt condition (R178), the VIA's synthesized bit 7 (R46, R237, R239, R248), and the aggregator's two pending
flags (R49). -/

namespace Sys2Proof.Machine

/-- RDRF is true iff the receive queue is non-empty (R32). -/
def rdrf (a : Acia) : Bool := !a.rxq.isEmpty

/-- TDRE is true iff no transmission is in flight (R32). -/
def tdre (a : Acia) : Bool := !a.txActive

/-- The ACIA interrupt condition (R178); it is not latched (D23). -/
def aciaIrqCond (p : Config.Params) (a : Acia) : Bool :=
  (receiveIrqEnabled a.control && rdrf a) ||
    (p.txIrqSelect.contains (transmitControl a.control) && tdre a)

/-- One bit of a status byte: the mask if the flag is set. -/
def flagByte (flag : Bool) (mask : Byte) : Byte := if flag then mask else 0x00#8

/-- The ACIA status byte (R172), given whether the bound port is ready; false without a port. -/
def aciaStatusByte (p : Config.Params) (a : Acia) (ready : Bool) : Byte :=
  let m := ready ^^ p.ctsDcdInvert
  flagByte (rdrf a) 0x01#8 ||| flagByte (tdre a) 0x02#8 |||
  flagByte m 0x04#8 ||| flagByte m 0x08#8 |||
  flagByte a.fe 0x10#8 ||| flagByte a.ovrn 0x20#8 ||| flagByte a.pe 0x40#8 |||
  flagByte (aciaIrqCond p a) 0x80#8

/-- The VIA's any-interrupt value, `(flags & enables) != 0` over bits 6 to 0 (R46, R248). -/
def viaAny (v : Via) : Bool := v.ifr &&& v.ier != 0#7

/-- A read of the VIA interrupt flag register (R237): the synthesized bit 7 above the seven flags. -/
def ifrByte (v : Via) : Byte := BitVec.ofBool (viaAny v) ++ v.ifr

/-- A read of the VIA interrupt enable register (R239): `IER_READ_BIT7` above the seven enables. -/
def ierByte (p : Config.Params) (v : Via) : Byte := BitVec.ofBool p.ierReadBit7 ++ v.ier

/-- `irqPending = (agg.irq != {})` (R49). -/
def irqPending (g : Agg) : Bool := !g.irq.isEmpty

/-- `nmiPending = (agg.nmi != {})` (R49). -/
def nmiPending (g : Agg) : Bool := !g.nmi.isEmpty

end Sys2Proof.Machine
end

