-- ==== Sys2Proof/Machine/Ops.lean ====
section
/-! DEFINITION. The named operations over memory, regions, peripheral instances, oracles and events that the
meanings share, and the block's part in errors and interrupts: ending an operation with an error (R14 `raise`), and
the edges of the two interrupt lines (R289, R336), which are the block's whole part in taking a trap. -/

namespace Sys2Proof.Machine

/-! ## Memory -/

/-- The byte a memory holds at an address. -/
def Memory.read : Memory → Nat → Byte
  | [], _ => Memory.unlisted
  | (k, b) :: rest, a => if k = a then b else Memory.read rest a

/-- Stores one byte, keeping the canonical form: storing what an unlisted address reads as removes the entry. -/
def Memory.write : Memory → Nat → Byte → Memory
  | [], a, b => if b = Memory.unlisted then [] else [(a, b)]
  | (k, c) :: rest, a, b =>
    if a < k then
      if b = Memory.unlisted then (k, c) :: rest else (a, b) :: (k, c) :: rest
    else if a = k then
      if b = Memory.unlisted then rest else (a, b) :: rest
    else (k, c) :: Memory.write rest a b

/-- The RAM block covers an address (R24). -/
def ramCovers (m : RamBlock) (a : Nat) : Bool := decide (m.base ≤ a) && decide (a < m.base + m.size)

/-- The last address of a ROM image (R25: `base + len - 1`). -/
def romLast (b : RomBlock) : Nat := b.base + b.bytes.length - 1

/-- A ROM image covers an address (R25). -/
def romCovers (b : RomBlock) (a : Nat) : Bool :=
  decide (b.base ≤ a) && decide (a < b.base + b.bytes.length)

/-- The image byte of a covered address (R106, R143). -/
def romRead (b : RomBlock) (a : Nat) : Byte := b.bytes.getD (a - b.base) openBus

/-- One byte of RAM by its address, whatever shadows it: none where no RAM block covers the address. -/
def ramByte (s : State) (a : Nat) : Option Byte :=
  match s.rtr.ram with
  | some m => if ramCovers m a then some (m.bytes.read a) else none
  | none => none

/-- Inserts an element before the first whose key is greater (R133; also the rising lists of R23). -/
def insertByKey {α : Type} (key : α → Nat) (x : α) : List α → List α
  | [] => [x]
  | y :: rest => if key x < key y then x :: y :: rest else y :: insertByKey key x rest

/-! ## How an operation ends -/

/-- The operation returns `r` and leaves `s`. -/
def finish (s : State) (r : Reply) : Host.Outcome State Fault Refusal := .next { s with reply := r }

/-- `raise E(info)` (R14, R320): the operation ends with the error, everything else exactly as it was before. The
error goes to the host that called the operation (R321); the machine goes on. -/
def raise (s : State) (e : OpError) : Host.Outcome State Fault Refusal := finish s (.error e)

/-- `emit X` (R14). -/
def emit (e : Event) (s : State) : State := { s with events := s.events ++ [e] }

/-! ## Oracles (R11, R301) -/

/-- `ask port.isReady()`. -/
def askReady (port : Nat) (e : Env) : Bool × Env :=
  match e.ready with
  | b :: rest => (b, { e with ready := rest })
  | [] => (Config.portReady port e.asked, { e with asked := e.asked + 1 })

/-- `ask port.hasData()`. -/
def askHasData (port : Nat) (e : Env) : Bool × Env :=
  match e.hasData with
  | b :: rest => (b, { e with hasData := rest })
  | [] => (Config.portHasData port e.asked, { e with asked := e.asked + 1 })

/-- `ask port.read()`, a byte or absent. -/
def askRead (port : Nat) (e : Env) : Option Byte × Env :=
  match e.reads with
  | b :: rest => (b, { e with reads := rest })
  | [] => (Config.portRead port e.asked, { e with asked := e.asked + 1 })

/-! ## Peripheral instances -/

/-- The reference names an instance of the system. -/
def periphExists (s : State) : PeriphRef → Bool
  | .acia i => decide (i < s.acias.length)
  | .via i => decide (i < s.vias.length)

/-- Runs an operation on an ACIA instance, with the parameters and the oracle at hand. -/
def onAcia (inst : Nat) (s : State) (f : Acia → Host.Outcome State Fault Refusal) :
    Host.Outcome State Fault Refusal :=
  match s.acias[inst]? with
  | some a => f a
  | none => .refused (.noSuchPeripheral (.acia inst))

/-- Runs an operation on a VIA instance. -/
def onVia (inst : Nat) (s : State) (f : Via → Host.Outcome State Fault Refusal) :
    Host.Outcome State Fault Refusal :=
  match s.vias[inst]? with
  | some v => f v
  | none => .refused (.noSuchPeripheral (.via inst))

/-- Runs an operation whose operand is a peripheral reference. -/
def onPeriph (p : PeriphRef) (s : State) (f : Host.Outcome State Fault Refusal) :
    Host.Outcome State Fault Refusal :=
  if periphExists s p then f else .refused (.noSuchPeripheral p)

/-- Puts an ACIA record back. -/
def setAcia (inst : Nat) (a : Acia) (s : State) : State := { s with acias := s.acias.set inst a }

/-- Puts a VIA record back. -/
def setVia (inst : Nat) (v : Via) (s : State) : State := { s with vias := s.vias.set inst v }

/-- A VIA register read: the byte returned and the VIA after it. -/
def viaReadOp (inst : Nat) (s : State) (f : Via → Byte × Via) : Host.Outcome State Fault Refusal :=
  onVia inst s fun v => finish (setVia inst (f v).2 s) (.byte (f v).1)

/-- A VIA register write: the VIA after it. -/
def viaWriteOp (inst : Nat) (s : State) (f : Via → Via) : Host.Outcome State Fault Refusal :=
  onVia inst s fun v => finish (setVia inst (f v) s) .unit

/-! ## The interrupt lines: the block's part in trap entry and return (R289, R336, R338) -/

/-- A source joins the IRQ set; `cpu.triggerIRQ()` on the empty to non-empty transition (R280). -/
def raiseIrq (src : Source) (s : State) : State :=
  let t := { s with agg := { s.agg with irq := s.agg.irq.insert src } }
  if s.agg.irq.isEmpty then emit .cpuTriggerIrq t else t

/-- A source joins the NMI set; `cpu.triggerNMI()` on the empty to non-empty transition (R281). -/
def raiseNmi (src : Source) (s : State) : State :=
  let t := { s with agg := { s.agg with nmi := s.agg.nmi.insert src } }
  if s.agg.nmi.isEmpty then emit .cpuTriggerNmi t else t

/-- A source leaves the IRQ set; `cpu.clearIRQ()` on the non-empty to empty transition (R282, D38). -/
def dropIrq (src : Source) (s : State) : State :=
  let left := s.agg.irq.filter (fun x => x != src)
  let t := { s with agg := { s.agg with irq := left } }
  if !s.agg.irq.isEmpty && left.isEmpty then emit .cpuClearIrq t else t

/-- A source leaves the NMI set; no event (R283). -/
def dropNmi (src : Source) (s : State) : State :=
  { s with agg := { s.agg with nmi := s.agg.nmi.filter (fun x => x != src) } }

end Sys2Proof.Machine
end

