-- ==== Sys2Proof/Machine/Aggregator.lean ====
section
/-! DEFINITION. The interrupt aggregator's operations (`43_aggregator.md`). -/

namespace Sys2Proof.Machine

/-- Inserts a name into an ascending list. -/
def insertName (n : String) : List String → List String
  | [] => [n]
  | m :: rest => if n < m then n :: m :: rest else m :: insertName n rest

/-- The names of the peripheral sources of a list that are not reporting, in ascending order (R284). -/
def staleIn (activeNames : List String) : List Source → List String
  | [] => []
  | .peripheral n :: rest =>
    if activeNames.contains n then staleIn activeNames rest else insertName n (staleIn activeNames rest)
  | .debug :: rest => staleIn activeNames rest
  | .other _ :: rest => staleIn activeNames rest

/-- The sources that the second loop of `AGG.UPDATE` removes, by name (R284). -/
def staleNames (g : Agg) (activeNames : List String) : List String := staleIn activeNames g.irq

/-- The first loop of `AGG.UPDATE` (R284): additions, in list order. -/
def addReporting (activeNames : List String) (s : State) : State :=
  activeNames.foldl (fun t n =>
    if t.agg.irq.contains (.peripheral n) then t else raiseIrq (.peripheral n) t) s

/-- The second loop of `AGG.UPDATE` (R284): removals, in ascending order of name. -/
def dropStale (activeNames : List String) (s : State) : State :=
  (staleNames s.agg activeNames).foldl (fun t n => dropIrq (.peripheral n) t) s

/-- `AGG.UPDATE` on the state (R284): additions, then removals (D40). -/
def aggUpdateAll (activeNames : List String) (s : State) : State :=
  dropStale activeNames (addReporting activeNames s)

/-- `AGG.RESET` on the state (R285): both sets empty, no event (D41). -/
def aggResetAll (s : State) : State := { s with agg := { irq := [], nmi := [] } }

/-! ## Meanings -/

/-- `AGG.TRIGIRQ` (R280). -/
def execAggTrigIrq (source : Source) (s : State) : Host.Outcome State Fault Refusal :=
  finish (raiseIrq source s) .unit

/-- `AGG.TRIGNMI` (R281). -/
def execAggTrigNmi (source : Source) (s : State) : Host.Outcome State Fault Refusal :=
  finish (raiseNmi source s) .unit

/-- `AGG.CLRIRQ` (R282). -/
def execAggClrIrq (source : Source) (s : State) : Host.Outcome State Fault Refusal :=
  finish (dropIrq source s) .unit

/-- `AGG.CLRNMI` (R283). -/
def execAggClrNmi (source : Source) (s : State) : Host.Outcome State Fault Refusal :=
  finish (dropNmi source s) .unit

/-- `AGG.UPDATE` (R284). -/
def execAggUpdate (activeNames : List String) (s : State) : Host.Outcome State Fault Refusal :=
  finish (aggUpdateAll activeNames s) .unit

/-- `AGG.RESET` (R285). -/
def execAggReset (s : State) : Host.Outcome State Fault Refusal :=
  finish (aggResetAll s) .unit

/-- `AGG.IRQPEND` (R286). -/
def execAggIrqPend (s : State) : Host.Outcome State Fault Refusal :=
  finish s (.bool (irqPending s.agg))

/-- `AGG.NMIPEND` (R287). -/
def execAggNmiPend (s : State) : Host.Outcome State Fault Refusal :=
  finish s (.bool (nmiPending s.agg))

end Sys2Proof.Machine
end

