-- ==== Sys2Proof/Machine/Acia.lean ====
section
/-! DEFINITION. The ACIA (`41_acia.md`): each register operation, the three parts of the tick, the reset, and the
meanings of the `ACIA.*` operations. -/

namespace Sys2Proof.Machine

/-! ## The operations on one instance -/

/-- `ResetState(a)` (R181): `baud` and `port` are kept. -/
def aciaResetState (a : Acia) : Acia :=
  { control := 0x00#8, tdr := 0x00#8, rdr := 0x00#8, rxq := [], rxShift := 0x00#8
    fe := false, ovrn := false, pe := false
    txActive := false, txCount := 0, rxActive := false, rxCount := 0
    baud := a.baud, cyclesPerBit := cyclesPerBitOf a.baud 0b00#2, port := a.port }

/-- `ACIA.STATUS.R` (R172): the byte, and the oracle after the one question a bound port is asked. -/
def aciaStatusRead (p : Config.Params) (a : Acia) (e : Env) : Byte × Env :=
  match a.port with
  | some k => let r := askReady k e; (aciaStatusByte p a r.1, r.2)
  | none => (aciaStatusByte p a false, e)

/-- `ACIA.CTRL.W` (R171): a master reset, or the byte stored and the bit time recomputed. -/
def aciaControlWrite (a : Acia) (v : Byte) : Acia :=
  if isMasterReset v then aciaResetState a
  else { a with control := v, cyclesPerBit := cyclesPerBitOf a.baud (divideSelect v) }

/-- `ACIA.RDR.R` (R174): dequeues one byte; with the queue empty the last byte read comes again (D19). -/
def aciaDataRead (a : Acia) : Byte × Acia :=
  match a.rxq with
  | b :: rest => (b, { a with rdr := b, rxq := rest })
  | [] => (a.rdr, a)

/-- `ACIA.TDR.W` (R173): ignored while a transmission is in flight; else the byte is latched and the countdown
starts. -/
def aciaDataWrite (a : Acia) (v : Byte) : Acia :=
  if a.txActive then a
  else { a with tdr := v, txActive := true, txCount := charCyclesOf a.cyclesPerBit }

/-- `TxAdvance(cycles)` (R175): the ACIA and the `port.write` it emits. -/
def aciaTxAdvance (cycles : Nat) (a : Acia) : Acia × List Event :=
  if a.txActive then
    match countdown a.txCount cycles with
    | none =>
      ({ a with txActive := false, txCount := 0 },
        match a.port with
        | some k => [.portWrite k a.tdr]
        | none => [])
    | some n => ({ a with txCount := n }, [])
  else (a, [])

/-- `RxAdvance(cycles)` (R176): at expiry OVRN if an unread byte was waiting, and the byte queued if there is
room. -/
def aciaRxAdvance (p : Config.Params) (cycles : Nat) (a : Acia) : Acia :=
  if a.rxActive then
    match countdown a.rxCount cycles with
    | none =>
      { a with
        rxActive := false
        rxCount := 0
        ovrn := a.ovrn || rdrf a
        rxq := if a.rxq.length < p.rxqCap then a.rxq ++ [a.rxShift] else a.rxq }
    | some n => { a with rxCount := n }
  else a

/-- `RxPoll()` (R177): the port is asked only while no reception is in flight, and its byte only if it reports
data. -/
def aciaRxPoll (a : Acia) (e : Env) : Acia × Env :=
  if a.rxActive then (a, e)
  else match a.port with
  | none => (a, e)
  | some k =>
    let h := askHasData k e
    if h.1 then
      let r := askRead k h.2
      match r.1 with
      | some b =>
        ({ a with rxShift := b, rxActive := true, rxCount := charCyclesOf a.cyclesPerBit }, r.2)
      | none => (a, r.2)
    else (a, h.2)

/-- `ACIA.TICK` (R184) on the state: transmit, receive, poll, in this order (D20). -/
def aciaTickAt (inst cycles : Nat) (a : Acia) (s : State) : State :=
  let tx := aciaTxAdvance cycles a
  let polled := aciaRxPoll (aciaRxAdvance s.params cycles tx.1) s.env
  { setAcia inst polled.1 s with env := polled.2, events := s.events ++ tx.2 }

/-! ## The register dispatch of the capability contract (R170, R310) -/

/-- `PRead` of an ACIA: the byte, the ACIA and the oracle after it. -/
def aciaRead (p : Config.Params) (off : Nat) (a : Acia) (e : Env) : Byte × Acia × Env :=
  match off with
  | 0 => let r := aciaStatusRead p a e; (r.1, a, r.2)
  | 1 => let r := aciaDataRead a; (r.1, r.2, e)
  | _ => (openBus, a, e)

/-- `PWrite` of an ACIA. -/
def aciaWrite (off : Nat) (v : Byte) (a : Acia) : Acia :=
  match off with
  | 0 => aciaControlWrite a v
  | 1 => aciaDataWrite a v
  | _ => a

/-! ## Meanings -/

/-- `ACIA.STATUS.R` (R172): no block state changes. -/
def execAciaStatusR (inst : Nat) (s : State) : Host.Outcome State Fault Refusal :=
  onAcia inst s fun a =>
    finish { s with env := (aciaStatusRead s.params a s.env).2 } (.byte (aciaStatusRead s.params a s.env).1)

/-- `ACIA.CTRL.W` (R171). -/
def execAciaCtrlW (inst : Nat) (v : Byte) (s : State) : Host.Outcome State Fault Refusal :=
  onAcia inst s fun a => finish (setAcia inst (aciaControlWrite a v) s) .unit

/-- `ACIA.RDR.R` (R174). -/
def execAciaRdrR (inst : Nat) (s : State) : Host.Outcome State Fault Refusal :=
  onAcia inst s fun a => finish (setAcia inst (aciaDataRead a).2 s) (.byte (aciaDataRead a).1)

/-- `ACIA.TDR.W` (R173). -/
def execAciaTdrW (inst : Nat) (v : Byte) (s : State) : Host.Outcome State Fault Refusal :=
  onAcia inst s fun a => finish (setAcia inst (aciaDataWrite a v) s) .unit

/-- `ACIA.UNDEF.R` (R182): returns `0xFF`, changes nothing. -/
def execAciaUndefR (inst : Nat) (_off : Half) (s : State) : Host.Outcome State Fault Refusal :=
  onAcia inst s fun _ => finish s (.byte openBus)

/-- `ACIA.UNDEF.W` (R183): dropped, changes nothing. -/
def execAciaUndefW (inst : Nat) (_off : Half) (_v : Byte) (s : State) :
    Host.Outcome State Fault Refusal :=
  onAcia inst s fun _ => finish s .unit

/-- `ACIA.TICK` (R184). -/
def execAciaTick (inst cycles : Nat) (s : State) : Host.Outcome State Fault Refusal :=
  onAcia inst s fun a => finish (aciaTickAt inst cycles a s) .unit

/-- `ACIA.RESET` (R181). -/
def execAciaReset (inst : Nat) (s : State) : Host.Outcome State Fault Refusal :=
  onAcia inst s fun a => finish (setAcia inst (aciaResetState a) s) .unit

/-- `ACIA.IRQ` (R178). -/
def execAciaIrq (inst : Nat) (s : State) : Host.Outcome State Fault Refusal :=
  onAcia inst s fun a => finish s (.bool (aciaIrqCond s.params a))

end Sys2Proof.Machine
end

