-- ==== Sys2Proof/Machine/Via.lean ====
section
/-! DEFINITION. The VIA (`42_via.md`): each register's read and write, the two timers' tick, the reset, and the
meanings of the `VIA.*` operations. -/

namespace Sys2Proof.Machine

/-! ## The registers of one instance: a read gives the byte and the VIA after it -/

/-- `RestartT1()` (R250). -/
def restartT1 (v : Via) : Via :=
  { v with t1c := v.t1l, t1run := true, ifr := clearFlag v.ifr t1Bit }

/-- `VIA.ORB.R` (R211): the full live register, no side effect. -/
def viaOrbRead (v : Via) : Byte × Via := (v.orb, v)

/-- `VIA.ORB.W` (R212): under the direction mask (R109). -/
def viaOrbWrite (d : Byte) (v : Via) : Via := { v with orb := portMerge v.orb v.ddrb d }

/-- `VIA.ORA.R` (R213): the full live register, no side effect. -/
def viaOraRead (v : Via) : Byte × Via := (v.ora, v)

/-- `VIA.ORA.W` (R214): under the direction mask (R109). -/
def viaOraWrite (d : Byte) (v : Via) : Via := { v with ora := portMerge v.ora v.ddra d }

/-- `VIA.DDRB.R` (R215): no side effect. -/
def viaDdrbRead (v : Via) : Byte × Via := (v.ddrb, v)

/-- `VIA.DDRB.W` (R216): the port data register is unchanged. -/
def viaDdrbWrite (d : Byte) (v : Via) : Via := { v with ddrb := d }

/-- `VIA.DDRA.R` (R217): no side effect. -/
def viaDdraRead (v : Via) : Byte × Via := (v.ddra, v)

/-- `VIA.DDRA.W` (R218): the port data register is unchanged. -/
def viaDdraWrite (d : Byte) (v : Via) : Via := { v with ddra := d }

/-- `VIA.T1CL.R` (R219): read-to-acknowledge of Timer 1. -/
def viaT1clRead (v : Via) : Byte × Via := (lowByte v.t1c, { v with ifr := clearFlag v.ifr t1Bit })

/-- `VIA.T1CL.W` (R220): the low byte of the latch, not of the counter (D28). -/
def viaT1clWrite (d : Byte) (v : Via) : Via := { v with t1l := withLowByte v.t1l d }

/-- `VIA.T1CH.R` (R221): no side effect. -/
def viaT1chRead (v : Via) : Byte × Via := (highByte v.t1c, v)

/-- `VIA.T1CH.W` (R222): the high byte of the latch, then a restart (D29). -/
def viaT1chWrite (d : Byte) (v : Via) : Via := restartT1 { v with t1l := withHighByte v.t1l d }

/-- `VIA.T1LL.R` (R223): no side effect. -/
def viaT1llRead (v : Via) : Byte × Via := (lowByte v.t1l, v)

/-- `VIA.T1LL.W` (R224): the low byte of the latch. -/
def viaT1llWrite (d : Byte) (v : Via) : Via := { v with t1l := withLowByte v.t1l d }

/-- `VIA.T1LH.R` (R225): no side effect. -/
def viaT1lhRead (v : Via) : Byte × Via := (highByte v.t1l, v)

/-- `VIA.T1LH.W` (R226): the high byte of the latch, then a restart (C10). -/
def viaT1lhWrite (d : Byte) (v : Via) : Via := restartT1 { v with t1l := withHighByte v.t1l d }

/-- `VIA.T2CL.R` (R227): read-to-acknowledge of Timer 2. -/
def viaT2clRead (v : Via) : Byte × Via := (lowByte v.t2c, { v with ifr := clearFlag v.ifr t2Bit })

/-- `VIA.T2CL.W` (R228): the low byte of the live counter (D30). -/
def viaT2clWrite (d : Byte) (v : Via) : Via := { v with t2c := withLowByte v.t2c d }

/-- `VIA.T2CH.R` (R229): no side effect. -/
def viaT2chRead (v : Via) : Byte × Via := (highByte v.t2c, v)

/-- `VIA.T2CH.W` (R230): starts Timer 2. -/
def viaT2chWrite (d : Byte) (v : Via) : Via :=
  { v with t2c := withHighByte v.t2c d, t2run := true, ifr := clearFlag v.ifr t2Bit }

/-- `VIA.SR.R` (R231): no side effect, no shifting. -/
def viaSrRead (v : Via) : Byte × Via := (v.sr, v)

/-- `VIA.SR.W` (R232): stored verbatim. -/
def viaSrWrite (d : Byte) (v : Via) : Via := { v with sr := d }

/-- `VIA.ACR.R` (R233): no side effect. -/
def viaAcrRead (v : Via) : Byte × Via := (v.acr, v)

/-- `VIA.ACR.W` (R234): stored verbatim; bit 6 is read at a Timer 1 expiry. -/
def viaAcrWrite (d : Byte) (v : Via) : Via := { v with acr := d }

/-- `VIA.PCR.R` (R235): no side effect. -/
def viaPcrRead (v : Via) : Byte × Via := (v.pcr, v)

/-- `VIA.PCR.W` (R236): stored verbatim. -/
def viaPcrWrite (d : Byte) (v : Via) : Via := { v with pcr := d }

/-- `VIA.IFR.R` (R237): bit 7 synthesized, no side effect. -/
def viaIfrRead (v : Via) : Byte × Via := (ifrByte v, v)

/-- `VIA.IFR.W` (R238): write-one-to-clear (R108). -/
def viaIfrWrite (d : Byte) (v : Via) : Via := { v with ifr := ifrWriteValue v.ifr d }

/-- `VIA.IER.R` (R239): bit 7 is a parameter, no side effect. -/
def viaIerRead (p : Config.Params) (v : Via) : Byte × Via := (ierByte p v, v)

/-- `VIA.IER.W` (R240): set mode or clear mode (R107). -/
def viaIerWrite (d : Byte) (v : Via) : Via := { v with ier := ierWriteValue v.ier d }

/-- `VIA.ORANH.R` (R241): as `VIA.ORA.R`, no handshake (D35). -/
def viaOranhRead (v : Via) : Byte × Via := (v.ora, v)

/-- `VIA.ORANH.W` (R242): as `VIA.ORA.W` (R214). -/
def viaOranhWrite (d : Byte) (v : Via) : Via := { v with ora := portMerge v.ora v.ddra d }

/-! ## The tick and the reset -/

/-- `T1Advance(cycles)` (R245): one comparison, the overshoot discarded (D31); `acr` bit 6 is sampled at the
expiry. -/
def viaT1Advance (cycles : Nat) (v : Via) : Via :=
  if v.t1run then
    match countdown v.t1c.toNat cycles with
    | none =>
      if v.acr.getLsbD 6 then { v with ifr := setFlag v.ifr t1Bit, t1c := v.t1l }
      else { v with ifr := setFlag v.ifr t1Bit, t1c := 0x0000#16, t1run := false }
    | some n => { v with t1c := BitVec.ofNat 16 n }
  else v

/-- `T2Advance(cycles)` (R246): one-shot only. -/
def viaT2Advance (cycles : Nat) (v : Via) : Via :=
  if v.t2run then
    match countdown v.t2c.toNat cycles with
    | none => { v with ifr := setFlag v.ifr t2Bit, t2c := 0x0000#16, t2run := false }
    | some n => { v with t2c := BitVec.ofNat 16 n }
  else v

/-- `VIA.TICK` (R247). -/
def viaTickStep (cycles : Nat) (v : Via) : Via := viaT2Advance cycles (viaT1Advance cycles v)

/-- `VIA.RESET` (R249): every field. -/
def viaResetState (_v : Via) : Via := viaFresh

/-! ## The register dispatch of the capability contract (R210, R310) -/

/-- `PRead` of a VIA. -/
def viaRead (p : Config.Params) (off : Nat) (v : Via) : Byte × Via :=
  match off with
  | 0 => viaOrbRead v
  | 1 => viaOraRead v
  | 2 => viaDdrbRead v
  | 3 => viaDdraRead v
  | 4 => viaT1clRead v
  | 5 => viaT1chRead v
  | 6 => viaT1llRead v
  | 7 => viaT1lhRead v
  | 8 => viaT2clRead v
  | 9 => viaT2chRead v
  | 10 => viaSrRead v
  | 11 => viaAcrRead v
  | 12 => viaPcrRead v
  | 13 => viaIfrRead v
  | 14 => viaIerRead p v
  | 15 => viaOranhRead v
  | _ => (openBus, v)

/-- `PWrite` of a VIA. -/
def viaWrite (off : Nat) (d : Byte) (v : Via) : Via :=
  match off with
  | 0 => viaOrbWrite d v
  | 1 => viaOraWrite d v
  | 2 => viaDdrbWrite d v
  | 3 => viaDdraWrite d v
  | 4 => viaT1clWrite d v
  | 5 => viaT1chWrite d v
  | 6 => viaT1llWrite d v
  | 7 => viaT1lhWrite d v
  | 8 => viaT2clWrite d v
  | 9 => viaT2chWrite d v
  | 10 => viaSrWrite d v
  | 11 => viaAcrWrite d v
  | 12 => viaPcrWrite d v
  | 13 => viaIfrWrite d v
  | 14 => viaIerWrite d v
  | 15 => viaOranhWrite d v
  | _ => v

/-! ## Meanings -/

/-- `VIA.ORB.R` (R211). -/
def execViaOrbR (inst : Nat) (s : State) : Host.Outcome State Fault Refusal :=
  viaReadOp inst s viaOrbRead

/-- `VIA.ORB.W` (R212). -/
def execViaOrbW (inst : Nat) (d : Byte) (s : State) : Host.Outcome State Fault Refusal :=
  viaWriteOp inst s (viaOrbWrite d)

/-- `VIA.ORA.R` (R213). -/
def execViaOraR (inst : Nat) (s : State) : Host.Outcome State Fault Refusal :=
  viaReadOp inst s viaOraRead

/-- `VIA.ORA.W` (R214). -/
def execViaOraW (inst : Nat) (d : Byte) (s : State) : Host.Outcome State Fault Refusal :=
  viaWriteOp inst s (viaOraWrite d)

/-- `VIA.DDRB.R` (R215). -/
def execViaDdrbR (inst : Nat) (s : State) : Host.Outcome State Fault Refusal :=
  viaReadOp inst s viaDdrbRead

/-- `VIA.DDRB.W` (R216). -/
def execViaDdrbW (inst : Nat) (d : Byte) (s : State) : Host.Outcome State Fault Refusal :=
  viaWriteOp inst s (viaDdrbWrite d)

/-- `VIA.DDRA.R` (R217). -/
def execViaDdraR (inst : Nat) (s : State) : Host.Outcome State Fault Refusal :=
  viaReadOp inst s viaDdraRead

/-- `VIA.DDRA.W` (R218). -/
def execViaDdraW (inst : Nat) (d : Byte) (s : State) : Host.Outcome State Fault Refusal :=
  viaWriteOp inst s (viaDdraWrite d)

/-- `VIA.T1CL.R` (R219). -/
def execViaT1clR (inst : Nat) (s : State) : Host.Outcome State Fault Refusal :=
  viaReadOp inst s viaT1clRead

/-- `VIA.T1CL.W` (R220). -/
def execViaT1clW (inst : Nat) (d : Byte) (s : State) : Host.Outcome State Fault Refusal :=
  viaWriteOp inst s (viaT1clWrite d)

/-- `VIA.T1CH.R` (R221). -/
def execViaT1chR (inst : Nat) (s : State) : Host.Outcome State Fault Refusal :=
  viaReadOp inst s viaT1chRead

/-- `VIA.T1CH.W` (R222). -/
def execViaT1chW (inst : Nat) (d : Byte) (s : State) : Host.Outcome State Fault Refusal :=
  viaWriteOp inst s (viaT1chWrite d)

/-- `VIA.T1LL.R` (R223). -/
def execViaT1llR (inst : Nat) (s : State) : Host.Outcome State Fault Refusal :=
  viaReadOp inst s viaT1llRead

/-- `VIA.T1LL.W` (R224). -/
def execViaT1llW (inst : Nat) (d : Byte) (s : State) : Host.Outcome State Fault Refusal :=
  viaWriteOp inst s (viaT1llWrite d)

/-- `VIA.T1LH.R` (R225). -/
def execViaT1lhR (inst : Nat) (s : State) : Host.Outcome State Fault Refusal :=
  viaReadOp inst s viaT1lhRead

/-- `VIA.T1LH.W` (R226). -/
def execViaT1lhW (inst : Nat) (d : Byte) (s : State) : Host.Outcome State Fault Refusal :=
  viaWriteOp inst s (viaT1lhWrite d)

/-- `VIA.T2CL.R` (R227). -/
def execViaT2clR (inst : Nat) (s : State) : Host.Outcome State Fault Refusal :=
  viaReadOp inst s viaT2clRead

/-- `VIA.T2CL.W` (R228). -/
def execViaT2clW (inst : Nat) (d : Byte) (s : State) : Host.Outcome State Fault Refusal :=
  viaWriteOp inst s (viaT2clWrite d)

/-- `VIA.T2CH.R` (R229). -/
def execViaT2chR (inst : Nat) (s : State) : Host.Outcome State Fault Refusal :=
  viaReadOp inst s viaT2chRead

/-- `VIA.T2CH.W` (R230). -/
def execViaT2chW (inst : Nat) (d : Byte) (s : State) : Host.Outcome State Fault Refusal :=
  viaWriteOp inst s (viaT2chWrite d)

/-- `VIA.SR.R` (R231). -/
def execViaSrR (inst : Nat) (s : State) : Host.Outcome State Fault Refusal :=
  viaReadOp inst s viaSrRead

/-- `VIA.SR.W` (R232). -/
def execViaSrW (inst : Nat) (d : Byte) (s : State) : Host.Outcome State Fault Refusal :=
  viaWriteOp inst s (viaSrWrite d)

/-- `VIA.ACR.R` (R233). -/
def execViaAcrR (inst : Nat) (s : State) : Host.Outcome State Fault Refusal :=
  viaReadOp inst s viaAcrRead

/-- `VIA.ACR.W` (R234). -/
def execViaAcrW (inst : Nat) (d : Byte) (s : State) : Host.Outcome State Fault Refusal :=
  viaWriteOp inst s (viaAcrWrite d)

/-- `VIA.PCR.R` (R235). -/
def execViaPcrR (inst : Nat) (s : State) : Host.Outcome State Fault Refusal :=
  viaReadOp inst s viaPcrRead

/-- `VIA.PCR.W` (R236). -/
def execViaPcrW (inst : Nat) (d : Byte) (s : State) : Host.Outcome State Fault Refusal :=
  viaWriteOp inst s (viaPcrWrite d)

/-- `VIA.IFR.R` (R237). -/
def execViaIfrR (inst : Nat) (s : State) : Host.Outcome State Fault Refusal :=
  viaReadOp inst s viaIfrRead

/-- `VIA.IFR.W` (R238). -/
def execViaIfrW (inst : Nat) (d : Byte) (s : State) : Host.Outcome State Fault Refusal :=
  viaWriteOp inst s (viaIfrWrite d)

/-- `VIA.IER.R` (R239). -/
def execViaIerR (inst : Nat) (s : State) : Host.Outcome State Fault Refusal :=
  viaReadOp inst s (viaIerRead s.params)

/-- `VIA.IER.W` (R240). -/
def execViaIerW (inst : Nat) (d : Byte) (s : State) : Host.Outcome State Fault Refusal :=
  viaWriteOp inst s (viaIerWrite d)

/-- `VIA.ORANH.R` (R241). -/
def execViaOranhR (inst : Nat) (s : State) : Host.Outcome State Fault Refusal :=
  viaReadOp inst s viaOranhRead

/-- `VIA.ORANH.W` (R242). -/
def execViaOranhW (inst : Nat) (d : Byte) (s : State) : Host.Outcome State Fault Refusal :=
  viaWriteOp inst s (viaOranhWrite d)

/-- `VIA.UNDEF.R` (R243): returns `0xFF`, changes nothing. -/
def execViaUndefR (inst : Nat) (_off : Half) (s : State) : Host.Outcome State Fault Refusal :=
  onVia inst s fun _ => finish s (.byte openBus)

/-- `VIA.UNDEF.W` (R244): dropped, changes nothing. -/
def execViaUndefW (inst : Nat) (_off : Half) (_d : Byte) (s : State) :
    Host.Outcome State Fault Refusal :=
  onVia inst s fun _ => finish s .unit

/-- `VIA.TICK` (R247). -/
def execViaTick (inst cycles : Nat) (s : State) : Host.Outcome State Fault Refusal :=
  viaWriteOp inst s (viaTickStep cycles)

/-- `VIA.RESET` (R249). -/
def execViaReset (inst : Nat) (s : State) : Host.Outcome State Fault Refusal :=
  viaWriteOp inst s viaResetState

/-- `VIA.IRQ` (R248). -/
def execViaIrq (inst : Nat) (s : State) : Host.Outcome State Fault Refusal :=
  onVia inst s fun v => finish s (.bool (viaAny v))

end Sys2Proof.Machine
end

