-- ==== Sys2Proof/Machine/Router.lean ====
section
/-! DEFINITION. The capability contract over both chips (R310), the bus router's resolution and accesses (R138 to
R145), and the memory router's management (R130 to R132, R135): `40_router.md`. -/

namespace Sys2Proof.Machine

/-! ## The capability contract (R310). A reference that names no instance occurs in no region and no binding of a
state that a run reaches; here such a peripheral does nothing and reads as an undefined offset (log entry 4). -/

/-- `PRead(p, off)`. -/
def pRead (p : PeriphRef) (off : Nat) (s : State) : Byte × State :=
  match p with
  | .acia i =>
    match s.acias[i]? with
    | some a =>
      let r := aciaRead s.params off a s.env
      (r.1, { setAcia i r.2.1 s with env := r.2.2 })
    | none => (openBus, s)
  | .via i =>
    match s.vias[i]? with
    | some v =>
      let r := viaRead s.params off v
      (r.1, setVia i r.2 s)
    | none => (openBus, s)

/-- `PWrite(p, off, d)`. -/
def pWrite (p : PeriphRef) (off : Nat) (d : Byte) (s : State) : State :=
  match p with
  | .acia i =>
    match s.acias[i]? with
    | some a => setAcia i (aciaWrite off d a) s
    | none => s
  | .via i =>
    match s.vias[i]? with
    | some v => setVia i (viaWrite off d v) s
    | none => s

/-- `PReset(p)`. -/
def pReset (p : PeriphRef) (s : State) : State :=
  match p with
  | .acia i =>
    match s.acias[i]? with
    | some a => setAcia i (aciaResetState a) s
    | none => s
  | .via i =>
    match s.vias[i]? with
    | some v => setVia i (viaResetState v) s
    | none => s

/-- `PTick(p, cycles)`. -/
def pTick (p : PeriphRef) (cycles : Nat) (s : State) : State :=
  match p with
  | .acia i =>
    match s.acias[i]? with
    | some a => aciaTickAt i cycles a s
    | none => s
  | .via i =>
    match s.vias[i]? with
    | some v => setVia i (viaTickStep cycles v) s
    | none => s

/-- `PIrq(p)`. -/
def pIrq (p : PeriphRef) (s : State) : Bool :=
  match p with
  | .acia i =>
    match s.acias[i]? with
    | some a => aciaIrqCond s.params a
    | none => false
  | .via i =>
    match s.vias[i]? with
    | some v => viaAny v
    | none => false

/-! ## Resolution -/

/-- What an address resolves to (R138). -/
inductive Target where
  | rom (b : RomBlock)
  | io (r : IoRegion)
  | ram (m : RamBlock)
  | unmapped
  deriving DecidableEq, Repr

/-- `Resolve(addr)` of a reduced address (R138): ROM, then IO, then RAM, then nothing. -/
def resolve (r : Router) (a : Nat) : Target :=
  match r.roms.find? (fun b => romCovers b a) with
  | some b => .rom b
  | none =>
    match r.ios.find? (fun g => covers g.start g.stop a) with
    | some g => .io g
    | none =>
      match r.ram with
      | some m => if ramCovers m a then .ram m else .unmapped
      | none => .unmapped

/-- `BUS.READ` (R140): the byte, and the state after the peripheral's side effects. -/
def busReadAt (addr : Nat) (s : State) : Byte × State :=
  let a := reduceAddr addr
  match resolve s.rtr a with
  | .rom b => (romRead b a, s)
  | .io g => pRead g.periph (a - g.start) s
  | .ram m => (m.bytes.read a, s)
  | .unmapped => (openBus, s)

/-- `BUS.WRITE` (R141). -/
def busWriteAt (addr v : Nat) (s : State) : State :=
  let a := reduceAddr addr
  let d := reduceByte v
  match resolve s.rtr a with
  | .rom _ => s
  | .io g => pWrite g.periph (a - g.start) d s
  | .ram m => { s with rtr := { s.rtr with ram := some { m with bytes := m.bytes.write a d } } }
  | .unmapped => s

/-- `HubLookup(addr)` (R147). No operation uses it (D4). -/
def hubLookup (h : Hub) (a : Nat) : Option Binding :=
  h.bindings.find? (fun b => covers b.start b.stop a)

/-! ## Memory router management -/

/-- The effect of `RTR.CONFIGRAM` on the regions (R130): the old block is lost wherever it was. -/
def withFreshRam (start size : Nat) (r : Router) : Router :=
  { r with ram := if 1 ≤ size then some { base := start, size := size, bytes := [] } else none }

/-- The effect of `RTR.LOADROM` on the regions (R131): every overlapping image is evicted wholesale. -/
def withRom (data : List Byte) (start : Nat) (r : Router) : Router :=
  if data.isEmpty then r
  else
    let kept := r.roms.filter (fun b => !intersects b.base (romLast b) start (start + data.length - 1))
    { r with roms := insertByKey RomBlock.base { base := start, bytes := data } kept }

/-- The effect of `RTR.MAPIO` on the regions (R132) when `start <= stop`: overlapping regions are evicted. -/
def withIo (start stop : Nat) (p : PeriphRef) (r : Router) : Router :=
  let kept := r.ios.filter (fun g => !intersects g.start g.stop start stop)
  { r with ios := insertByKey IoRegion.start { start := start, stop := stop, periph := p } kept }

/-- The effect of `RTR.CLEARRAM` on the regions (R135). -/
def withRamCleared (r : Router) : Router :=
  match r.ram with
  | some m => { r with ram := some { m with bytes := [] } }
  | none => r

/-! ## Meanings -/

/-- `BUS.READ` (R140). -/
def execBusRead (addr : Nat) (s : State) : Host.Outcome State Fault Refusal :=
  finish (busReadAt addr s).2 (.byte (busReadAt addr s).1)

/-- `BUS.WRITE` (R141). -/
def execBusWrite (addr v : Nat) (s : State) : Host.Outcome State Fault Refusal :=
  finish (busWriteAt addr v s) .unit

/-- `RTR.CONFIGRAM` (R130). -/
def execRtrConfigRam (start size : Nat) (s : State) : Host.Outcome State Fault Refusal :=
  finish { s with rtr := withFreshRam start size s.rtr } .unit

/-- `RTR.LOADROM` (R131). -/
def execRtrLoadRom (data : List Byte) (start : Nat) (s : State) : Host.Outcome State Fault Refusal :=
  finish { s with rtr := withRom data start s.rtr } .unit

/-- `RTR.MAPIO` (R132). -/
def execRtrMapIo (start stop : Nat) (periph : PeriphRef) (s : State) :
    Host.Outcome State Fault Refusal :=
  onPeriph periph s <|
    if stop < start then raise s (.invalidRange start stop)
    else finish { s with rtr := withIo start stop periph s.rtr } .unit

/-- `RTR.CLEARRAM` (R135). -/
def execRtrClearRam (s : State) : Host.Outcome State Fault Refusal :=
  finish { s with rtr := withRamCleared s.rtr } .unit

end Sys2Proof.Machine
end

