-- ==== Sys2Proof/Machine/HubOps.lean ====
section
/-! DEFINITION. The peripheral hub's operations (`40_router.md` R133, R134, R136, R137). -/

namespace Sys2Proof.Machine

/-- The errors of `HUB.REGISTER` in the order they are tested (R133, R335): `InvalidRange`, `DuplicateName`,
`AddressConflict` with the first conflicting binding in list order (D6); none if the registration is admitted. -/
def admissionError (h : Hub) (start stop : Nat) (name : String) : Option OpError :=
  if stop < start then some (.invalidRange start stop)
  else if h.bindings.any (fun b => b.name == name) then some (.duplicateName name)
  else
    match h.bindings.find? (fun b => intersects b.start b.stop start stop) with
    | some c => some (.addressConflict start stop c.start c.stop)
    | none => none

/-- The hub with an admitted binding inserted before the first binding whose start is greater (R133). -/
def withBinding (h : Hub) (b : Binding) : Hub :=
  { bindings := insertByKey Binding.start b h.bindings }

/-- The hub without the binding of a name (R134); the order is kept. -/
def withoutBinding (h : Hub) (name : String) : Hub :=
  { bindings := h.bindings.filter (fun b => b.name != name) }

/-- `HUB.TICK` on the state (R136): every binding's peripheral once, in list order. -/
def hubTickAll (cycles : Nat) (s : State) : State :=
  s.hub.bindings.foldl (fun t b => pTick b.periph cycles t) s

/-- `HUB.COLLECT` (R137): the names of the reporting peripherals, in list order. -/
def hubCollectNames (s : State) : List String :=
  (s.hub.bindings.filter (fun b => pIrq b.periph s)).map Binding.name

/-! ## Meanings -/

/-- `HUB.REGISTER` (R133). -/
def execHubRegister (periph : PeriphRef) (start stop : Nat) (name : String) (s : State) :
    Host.Outcome State Fault Refusal :=
  onPeriph periph s <|
    match admissionError s.hub start stop name with
    | some e => raise s e
    | none =>
      finish { s with hub := withBinding s.hub { name := name, start := start, stop := stop, periph := periph } }
        .unit

/-- `HUB.UNREGISTER` (R134). -/
def execHubUnregister (name : String) (s : State) : Host.Outcome State Fault Refusal :=
  finish { s with hub := withoutBinding s.hub name } .unit

/-- `HUB.TICK` (R136). -/
def execHubTick (cycles : Nat) (s : State) : Host.Outcome State Fault Refusal :=
  finish (hubTickAll cycles s) .unit

/-- `HUB.COLLECT` (R137). -/
def execHubCollect (s : State) : Host.Outcome State Fault Refusal :=
  finish s (.names (hubCollectNames s))

end Sys2Proof.Machine
end

