-- ==== Sys2Proof/Machine/System.lean ====
section
/-! DEFINITION. The composite operations by which the coordinator drives the block (`44_system.md` R305 to R309). -/

namespace Sys2Proof.Machine

/-- The bus accesses the engine makes during a step, in its own order (R305), and the bytes its reads were given. -/
def runAccesses : List Access → State → List Byte × State
  | [], s => ([], s)
  | .read addr :: rest, s =>
    let r := busReadAt addr s
    let q := runAccesses rest r.2
    (r.1 :: q.1, q.2)
  | .write addr v :: rest, s => runAccesses rest (busWriteAt addr v s)

/-- What a step does after the engine has run `c > 0` cycles (R305): tick, collect, update, in this order (D43). -/
def afterEngine (c : Nat) (s : State) : State :=
  let t := hubTickAll c s
  aggUpdateAll (hubCollectNames t) t

/-- The resets of every registered peripheral, in list order (R308). -/
def resetBound (s : State) : State :=
  s.hub.bindings.foldl (fun t b => pReset b.periph t) s

/-! ## Meanings -/

/-- `SYS.STEP` (R305): `accesses` and `cycles` are the CPU engine's answer
(log entry 9). A step of 0 cycles is the breakpoint
halt (R309): no tick, no collection, no update. -/
def execSysStep (accesses : List Access) (cycles : Nat) (s : State) :
    Host.Outcome State Fault Refusal :=
  let r := runAccesses accesses s
  if cycles = 0 then finish r.2 (.halted r.1)
  else finish (afterEngine cycles r.2) (.ran cycles r.1)

/-- `SYS.RESET` (R308). -/
def execSysReset (s : State) : Host.Outcome State Fault Refusal :=
  finish (emit .cpuReset (aggResetAll (resetBound s))) .unit

/-- `SYS.ATTACH` (R306): the hub first, and on its error nothing has changed. -/
def execSysAttach (name : String) (start stop : Nat) (periph : PeriphRef) (s : State) :
    Host.Outcome State Fault Refusal :=
  onPeriph periph s <|
    match admissionError s.hub start stop name with
    | some e => raise s e
    | none =>
      finish
        { s with
          hub := withBinding s.hub { name := name, start := start, stop := stop, periph := periph }
          rtr := withIo start stop periph s.rtr }
        .unit

/-- `SYS.DETACH` (R307). -/
def execSysDetach (name : String) (s : State) : Host.Outcome State Fault Refusal :=
  match s.hub.bindings.find? (fun b => b.name == name) with
  | some b =>
    finish
      { s with
        rtr := { s.rtr with ios := s.rtr.ios.filter (fun g => !(g.start == b.start && g.stop == b.stop)) }
        hub := withoutBinding s.hub name }
      .unit
  | none => finish s .unit

end Sys2Proof.Machine
end

