-- ==== Sys2Proof/Machine/Dispatch.lean ====
section
/-! DEFINITION. One arm for each constructor of `Instr`, one direct call of its meaning. -/

namespace Sys2Proof.Machine

def exec (i : Instr) (s : State) : Host.Outcome State Fault Refusal :=
  match i with
  | .busRead addr => Sys2Proof.Machine.execBusRead addr s
  | .busWrite addr v => Sys2Proof.Machine.execBusWrite addr v s
  | .aciaStatusR inst => Sys2Proof.Machine.execAciaStatusR inst s
  | .aciaCtrlW inst v => Sys2Proof.Machine.execAciaCtrlW inst v s
  | .aciaRdrR inst => Sys2Proof.Machine.execAciaRdrR inst s
  | .aciaTdrW inst v => Sys2Proof.Machine.execAciaTdrW inst v s
  | .aciaUndefR inst off => Sys2Proof.Machine.execAciaUndefR inst off s
  | .aciaUndefW inst off v => Sys2Proof.Machine.execAciaUndefW inst off v s
  | .viaOrbR inst => Sys2Proof.Machine.execViaOrbR inst s
  | .viaOrbW inst d => Sys2Proof.Machine.execViaOrbW inst d s
  | .viaOraR inst => Sys2Proof.Machine.execViaOraR inst s
  | .viaOraW inst d => Sys2Proof.Machine.execViaOraW inst d s
  | .viaDdrbR inst => Sys2Proof.Machine.execViaDdrbR inst s
  | .viaDdrbW inst d => Sys2Proof.Machine.execViaDdrbW inst d s
  | .viaDdraR inst => Sys2Proof.Machine.execViaDdraR inst s
  | .viaDdraW inst d => Sys2Proof.Machine.execViaDdraW inst d s
  | .viaT1clR inst => Sys2Proof.Machine.execViaT1clR inst s
  | .viaT1clW inst d => Sys2Proof.Machine.execViaT1clW inst d s
  | .viaT1chR inst => Sys2Proof.Machine.execViaT1chR inst s
  | .viaT1chW inst d => Sys2Proof.Machine.execViaT1chW inst d s
  | .viaT1llR inst => Sys2Proof.Machine.execViaT1llR inst s
  | .viaT1llW inst d => Sys2Proof.Machine.execViaT1llW inst d s
  | .viaT1lhR inst => Sys2Proof.Machine.execViaT1lhR inst s
  | .viaT1lhW inst d => Sys2Proof.Machine.execViaT1lhW inst d s
  | .viaT2clR inst => Sys2Proof.Machine.execViaT2clR inst s
  | .viaT2clW inst d => Sys2Proof.Machine.execViaT2clW inst d s
  | .viaT2chR inst => Sys2Proof.Machine.execViaT2chR inst s
  | .viaT2chW inst d => Sys2Proof.Machine.execViaT2chW inst d s
  | .viaSrR inst => Sys2Proof.Machine.execViaSrR inst s
  | .viaSrW inst d => Sys2Proof.Machine.execViaSrW inst d s
  | .viaAcrR inst => Sys2Proof.Machine.execViaAcrR inst s
  | .viaAcrW inst d => Sys2Proof.Machine.execViaAcrW inst d s
  | .viaPcrR inst => Sys2Proof.Machine.execViaPcrR inst s
  | .viaPcrW inst d => Sys2Proof.Machine.execViaPcrW inst d s
  | .viaIfrR inst => Sys2Proof.Machine.execViaIfrR inst s
  | .viaIfrW inst d => Sys2Proof.Machine.execViaIfrW inst d s
  | .viaIerR inst => Sys2Proof.Machine.execViaIerR inst s
  | .viaIerW inst d => Sys2Proof.Machine.execViaIerW inst d s
  | .viaOranhR inst => Sys2Proof.Machine.execViaOranhR inst s
  | .viaOranhW inst d => Sys2Proof.Machine.execViaOranhW inst d s
  | .viaUndefR inst off => Sys2Proof.Machine.execViaUndefR inst off s
  | .viaUndefW inst off d => Sys2Proof.Machine.execViaUndefW inst off d s
  | .rtrConfigRam start size => Sys2Proof.Machine.execRtrConfigRam start size s
  | .rtrLoadRom data start => Sys2Proof.Machine.execRtrLoadRom data start s
  | .rtrMapIo start stop periph => Sys2Proof.Machine.execRtrMapIo start stop periph s
  | .rtrClearRam => Sys2Proof.Machine.execRtrClearRam s
  | .hubRegister periph start stop name => Sys2Proof.Machine.execHubRegister periph start stop name s
  | .hubUnregister name => Sys2Proof.Machine.execHubUnregister name s
  | .hubTick cycles => Sys2Proof.Machine.execHubTick cycles s
  | .hubCollect => Sys2Proof.Machine.execHubCollect s
  | .aciaTick inst cycles => Sys2Proof.Machine.execAciaTick inst cycles s
  | .aciaReset inst => Sys2Proof.Machine.execAciaReset inst s
  | .aciaIrq inst => Sys2Proof.Machine.execAciaIrq inst s
  | .viaTick inst cycles => Sys2Proof.Machine.execViaTick inst cycles s
  | .viaReset inst => Sys2Proof.Machine.execViaReset inst s
  | .viaIrq inst => Sys2Proof.Machine.execViaIrq inst s
  | .aggTrigIrq source => Sys2Proof.Machine.execAggTrigIrq source s
  | .aggTrigNmi source => Sys2Proof.Machine.execAggTrigNmi source s
  | .aggClrIrq source => Sys2Proof.Machine.execAggClrIrq source s
  | .aggClrNmi source => Sys2Proof.Machine.execAggClrNmi source s
  | .aggUpdate activeNames => Sys2Proof.Machine.execAggUpdate activeNames s
  | .aggReset => Sys2Proof.Machine.execAggReset s
  | .aggIrqPend => Sys2Proof.Machine.execAggIrqPend s
  | .aggNmiPend => Sys2Proof.Machine.execAggNmiPend s
  | .sysStep accesses cycles => Sys2Proof.Machine.execSysStep accesses cycles s
  | .sysReset => Sys2Proof.Machine.execSysReset s
  | .sysAttach name start stop periph => Sys2Proof.Machine.execSysAttach name start stop periph s
  | .sysDetach name => Sys2Proof.Machine.execSysDetach name s

end Sys2Proof.Machine
end

