-- ==== Sys2Proof/Machine/Fetch.lean ====
section
/-! DEFINITION. How the next operation comes to the block: the outside agents present requests (R10), which are
taken one at a time, in order, each to its end before the next (R74, R82). -/

namespace Sys2Proof.Machine

/-- The next request and the state once it is taken; none where no agent invokes an operation. -/
def nextRequest (s : State) : Option (Request × State) :=
  match s.requests with
  | r :: rest => some (r, { s with requests := rest })
  | [] => none

/-- Runs one presented request: the operation its word and operands name, or a refusal by name (R117). -/
def runRequest (r : Request) (s : State) : Host.Outcome State Fault Refusal :=
  match decode r with
  | .ok i => exec i s
  | .error e => .refused (.undecodable e)

/-- The state with a request presented before all others. -/
def presentFirst (r : Request) (s : State) : State := { s with requests := r :: s.requests }

end Sys2Proof.Machine
end

