-- ==== Sys2Proof/Machine/Step.lean ====
section
/-! DEFINITION. One step of the machine: the next operation an outside agent invokes, or nothing. -/

namespace Sys2Proof.Machine

/-- One step. With no operation invoked nothing changes: "while the host calls no operation nothing changes, and
nothing is lost" (R346). -/
def step (s : State) : Host.Outcome State Fault Refusal :=
  match nextRequest s with
  | some (r, t) => runRequest r t
  | none => .next s

/-- `s` with the operation of a table row's word presented first, its unpacked operands at zero. -/
def State.withFetchWord (s : State) (nbits w : Nat) : State := presentFirst (tableRequest nbits w) s

end Sys2Proof.Machine
end

