-- ==== Sys2Proof/Safety.lean ====
section
/-! DEFINITION. The terms the claims use: the well-formed states (the invariants of `10_state.md` R23 to R29 and of
`41_acia.md` R185 and `42_via.md` R251), the register operation an offset selects (R170, R210), several operations
one after another (R74, R82), and the count of interrupt edges (R290). -/

namespace Sys2Proof.Machine

/-! ## Well-formed states -/

/-- The parameters' range (R8): `RXQ_CAP >= 1`. -/
abbrev paramsWf (p : Config.Params) : Prop := 1 ≤ p.rxqCap

/-- The ACIA's invariants (R185), with the range of `BAUD` (R8, R38). -/
abbrev aciaWf (p : Config.Params) (a : Acia) : Prop :=
  (1 ≤ a.baud ∧ a.baud ≤ 1000000) ∧
  a.rxq.length ≤ p.rxqCap ∧
  ((a.txActive = true → 1 ≤ a.txCount) ∧ (a.txActive = false → a.txCount = 0)) ∧
  ((a.rxActive = true → 1 ≤ a.rxCount) ∧ (a.rxActive = false → a.rxCount = 0)) ∧
  (a.fe = false ∧ a.pe = false) ∧
  a.cyclesPerBit = cyclesPerBitOf a.baud (divideSelect a.control) ∧
  divideSelect a.control ≠ 0b11#2

/-- The VIA's invariant (R251): `ifr[4:0] == 0`. -/
abbrev viaWf (v : Via) : Prop := ∀ k < 5, v.ifr.getLsbD k = false

/-- A RAM block (R24): not empty, its memory canonical and inside its range. -/
abbrev ramWf (m : RamBlock) : Prop :=
  1 ≤ m.size ∧ Memory.wf m.bytes ∧ ∀ c ∈ m.bytes, m.base ≤ c.1 ∧ c.1 < m.base + m.size

/-- The memory router (R23, R28): regions of one kind are disjoint, listed by rising address, and not empty. -/
abbrev routerWf (r : Router) : Prop :=
  (∀ m ∈ r.ram, ramWf m) ∧
  (r.roms.Pairwise (fun x y => x.base + x.bytes.length ≤ y.base) ∧ ∀ b ∈ r.roms, 1 ≤ b.bytes.length) ∧
  (r.ios.Pairwise (fun x y => x.stop < y.start) ∧ ∀ g ∈ r.ios, g.start ≤ g.stop)

/-- The hub (R27): bindings sorted by start, ranges disjoint, names unique. -/
abbrev hubWf (h : Hub) : Prop :=
  h.bindings.Pairwise (fun x y => x.stop < y.start) ∧
  h.bindings.Pairwise (fun x y => x.name ≠ y.name) ∧
  ∀ b ∈ h.bindings, b.start ≤ b.stop

/-- Every region and every binding refers to an instance of the system (R26, R27). -/
abbrev refsWf (s : State) : Prop :=
  (∀ g ∈ s.rtr.ios, periphExists s g.periph = true) ∧
  ∀ b ∈ s.hub.bindings, periphExists s b.periph = true

/-- The aggregator's sets hold no source twice (R48). -/
abbrev aggWf (g : Agg) : Prop := g.irq.Nodup ∧ g.nmi.Nodup

/-- The states a run can reach from a system built within the parameters' ranges. -/
abbrev State.wf (s : State) : Prop :=
  paramsWf s.params ∧ (∀ a ∈ s.acias, aciaWf s.params a) ∧ (∀ v ∈ s.vias, viaWf v) ∧
  routerWf s.rtr ∧ hubWf s.hub ∧ refsWf s ∧ aggWf s.agg

/-- The relation of the two halves (R29): bindings and IO regions name the same ranges and peripherals. -/
abbrev halvesAgree (s : State) : Prop :=
  (∀ b ∈ s.hub.bindings, ∃ g ∈ s.rtr.ios, g.start = b.start ∧ g.stop = b.stop ∧ g.periph = b.periph) ∧
  (∀ g ∈ s.rtr.ios, ∃ b ∈ s.hub.bindings, b.start = g.start ∧ b.stop = g.stop ∧ b.periph = g.periph)

/-! ## Regions as a claim speaks of them -/

/-- Some ROM region covers the address. -/
abbrev romCovered (s : State) (a : Nat) : Prop := ∃ b ∈ s.rtr.roms, b.base ≤ a ∧ a < b.base + b.bytes.length

/-- Some IO region covers the address. -/
abbrev ioCovered (s : State) (a : Nat) : Prop := ∃ g ∈ s.rtr.ios, g.start ≤ a ∧ a ≤ g.stop

/-- Two inclusive ranges have an address in common. -/
abbrev rangesMeet (s1 e1 s2 e2 : Nat) : Prop := s1 ≤ e2 ∧ s2 ≤ e1

/-! ## Operations by peripheral and offset (R170, R210, R310) -/

/-- The read operation that an offset of a peripheral selects. -/
def readOp : PeriphRef → Nat → Instr
  | .acia i, off => decodeAcia false i (BitVec.ofNat 16 off) 0
  | .via i, off => decodeViaRead i (BitVec.ofNat 16 off)

/-- The write operation that an offset of a peripheral selects. -/
def writeOp : PeriphRef → Nat → Byte → Instr
  | .acia i, off, d => decodeAcia true i (BitVec.ofNat 16 off) d
  | .via i, off, d => decodeViaWrite i (BitVec.ofNat 16 off) d

/-- The tick operation of a peripheral. -/
def tickOp (cycles : Nat) : PeriphRef → Instr
  | .acia i => .aciaTick i cycles
  | .via i => .viaTick i cycles

/-- The interrupt report of a peripheral. -/
def irqOp : PeriphRef → Instr
  | .acia i => .aciaIrq i
  | .via i => .viaIrq i

/-- The reset operation of a peripheral. -/
def resetOp : PeriphRef → Instr
  | .acia i => .aciaReset i
  | .via i => .viaReset i

/-- The bus operation of an access the engine makes. -/
def accessOp : Access → Instr
  | .read addr => .busRead addr
  | .write addr v => .busWrite addr v

/-- Operations one after another, each to its end (R74, R82): the replies, and the state after the last. None if
one of them answers no next state. -/
def runAll : List Instr → State → Option (List Reply × State)
  | [], s => some ([], s)
  | i :: rest, s =>
    match exec i s with
    | .next t =>
      match runAll rest t with
      | some (rs, u) => some (t.reply :: rs, u)
      | none => none
    | .fault _ => none
    | .refused _ => none

/-- The bytes among the replies of a list of operations, in order. -/
def replyBytes : List Reply → List Byte
  | [] => []
  | .byte b :: rest => b :: replyBytes rest
  | _ :: rest => replyBytes rest

/-! ## Which operations may change what -/

/-- The access stores. -/
def isWrite : Access → Bool
  | .read _ => false
  | .write _ _ => true

/-- The operations that may change a byte of RAM: stores, a step whose accesses hold one, and the management of the RAM
block (R130, R135, R141, R305). -/
def mayChangeRam : Instr → Bool
  | .busWrite _ _ | .rtrConfigRam _ _ | .rtrClearRam => true
  | .sysStep accs _ => accs.any isWrite
  | _ => false

/-- The operation that may change the ROM images (R131). -/
def mayChangeRoms : Instr → Bool
  | .rtrLoadRom _ _ => true
  | _ => false

/-- The operations that may change the IO regions (R132, R306, R307). -/
def mayChangeIos : Instr → Bool
  | .rtrMapIo _ _ _ | .sysAttach _ _ _ _ | .sysDetach _ => true
  | _ => false

/-- The operations that may change the hub's bindings (R133, R134, R306, R307). -/
def mayChangeHub : Instr → Bool
  | .hubRegister _ _ _ _ | .hubUnregister _ | .sysAttach _ _ _ _ | .sysDetach _ => true
  | _ => false

/-- The operations that may change the IRQ set (R280, R282, R284, R285, R305, R308). -/
def mayChangeIrqSet : Instr → Bool
  | .aggTrigIrq _ | .aggClrIrq _ | .aggUpdate _ | .aggReset | .sysStep _ _ | .sysReset => true
  | _ => false

/-- The operations that may change the NMI set (R281, R283, R285, R308): no report of a peripheral (R327, D39). -/
def mayChangeNmiSet : Instr → Bool
  | .aggTrigNmi _ | .aggClrNmi _ | .aggReset | .sysReset => true
  | _ => false

/-- The operations that may change ACIA instance `k`: its own register writes, its data read, its tick and reset,
and those that reach it through a region or a binding. -/
def mayChangeAcia (k : Nat) : Instr → Bool
  | .aciaCtrlW i _ | .aciaRdrR i | .aciaTdrW i _ | .aciaTick i _ | .aciaReset i => i == k
  | .busRead _ | .busWrite _ _ | .hubTick _ | .sysStep _ _ | .sysReset => true
  | _ => false

/-- The operations that may change VIA instance `k`: its own register writes, its two counter-low reads, its tick
and reset, and those that reach it through a region or a binding. -/
def mayChangeVia (k : Nat) : Instr → Bool
  | .viaOrbW i _ | .viaOraW i _ | .viaDdrbW i _ | .viaDdraW i _ | .viaT1clW i _ | .viaT1chW i _ => i == k
  | .viaT1llW i _ | .viaT1lhW i _ | .viaT2clW i _ | .viaT2chW i _ | .viaSrW i _ | .viaAcrW i _ => i == k
  | .viaPcrW i _ | .viaIfrW i _ | .viaIerW i _ | .viaOranhW i _ => i == k
  | .viaT1clR i | .viaT2clR i | .viaTick i _ | .viaReset i => i == k
  | .busRead _ | .busWrite _ _ | .hubTick _ | .sysStep _ _ | .sysReset => true
  | _ => false

/-- A written number whose low two bits are the master reset command of an ACIA (R31). -/
def carriesMasterReset (v : Nat) : Bool := v % 4 == 3

/-- A bus write is a master reset of ACIA instance `k` (R171): it carries the command, no ROM image shadows the
address (R138), and the address is offset 0 of an IO region of that instance (R105, R170). -/
def isMasterResetWrite (s : State) (k addr v : Nat) : Bool :=
  carriesMasterReset v && !(s.rtr.roms.any fun b => romCovers b (addr % 65536)) &&
    s.rtr.ios.any fun g =>
      g.periph == .acia k && covers g.start g.stop (addr % 65536) && g.start == addr % 65536

/-- The operations that may reset ACIA instance `k` (R370): its reset, a master reset by a register or bus write, and
the system reset where a binding names it. The regions are those before the operation; no access changes them. -/
def mayResetAcia (s : State) (k : Nat) : Instr → Bool
  | .aciaReset i => i == k
  | .aciaCtrlW i v => i == k && carriesMasterReset v.toNat
  | .busWrite addr v => isMasterResetWrite s k addr v
  | .sysStep accs _ => accs.any fun
    | .read _ => false
    | .write addr v => isMasterResetWrite s k addr v
  | .sysReset => s.hub.bindings.any fun b => b.periph == .acia k
  | _ => false

/-! ## Conditions of the chips in numbers -/

/-- The ACIA's interrupt condition (R178), with the control fields as numbers: bit 7, and bits 6:5. -/
abbrev aciaInterrupts (p : Config.Params) (a : Acia) : Prop :=
  (a.control.getLsbD 7 = true ∧ a.rxq ≠ []) ∨
    ((∃ m ∈ p.txIrqSelect, m.toNat = a.control.toNat / 32 % 4) ∧ a.txActive = false)

/-- The receiver of `b` is idle, as a tick leaves that of `a` (R176, R37): the shift stage is kept, and the count is 0
after a reception and unchanged without one. -/
abbrev receiverIdleAfter (a b : Acia) : Prop :=
  b.rxActive = false ∧ b.rxShift = a.rxShift ∧ b.rxCount = if a.rxActive then 0 else a.rxCount

/-- The VIA's interrupt condition (R248): some flag is set and enabled. -/
abbrev viaInterrupts (v : Via) : Prop := ∃ k < 7, v.ifr.getLsbD k = true ∧ v.ier.getLsbD k = true

/-- A binding's peripheral reports an interrupt: its report operation answers true (R137). -/
abbrev reports (s : State) (b : Binding) : Prop :=
  exec (irqOp b.periph) s = .next { s with reply := .bool true }

/-! ## Interrupt edges (R290) -/

/-- How often an event was emitted. -/
def emitted (e : Event) (s : State) : Nat := s.events.count e

/-- 1 while the IRQ set is non-empty, else 0. -/
def irqLevel (s : State) : Nat := if s.agg.irq = [] then 0 else 1

end Sys2Proof.Machine
end

