-- ==== Sys2Proof/Certificates/Slice0/Obligations.lean ====
section
/-! DEFINITION. The statements for the provers. Each is a `def Obligations.<Name> : Prop`; OBLIGATIONS.json lists
them. Where a statement rests on a point that the spec marks as its own decision (D<n> of
`92_eei_decisions.md`) or on a choice of the model (a log entry), its docstring says so. -/

set_option autoImplicit false

open Sys2Proof Sys2Proof.Machine

/-! ## Words and operations -/

/-- Decode and encode agree, for every well-formed operation of all three formats (R101 to R103, R110; the packing
is the spec's own, D46). -/
def Obligations.DecodeInvertsEncode : Prop :=
  ∀ i : Instr, i.wf = true → decode (encode i) = .ok i

/-- What the decoder accepts is well-formed: a catch-all row applies only beyond its chip's registers (R102; the packing
is the spec's own, D46). -/
def Obligations.DecodedOperationsAreWellFormed : Prop :=
  ∀ (r : Request) (i : Instr), decode r = .ok i → i.wf = true

/-- The example words of `95_test_vectors.md` decode to the operations they are printed for (R101, R102, R110; the
packing is the spec's own, D46). -/
def Obligations.ExampleWordsDecode : Prop :=
  decode { fmt := .b, word := 0x1800003#32 } = .ok (.busWrite 0x8000 0x03) ∧
  decode { fmt := .b, word := 0x0800000#32 } = .ok (.busRead 0x8000) ∧
  decode { fmt := .p, word := 0x1000141#32 } = .ok (.aciaTdrW 0 0x41#8) ∧
  decode { fmt := .p, word := 0x0000000#32 } = .ok (.aciaStatusR 0) ∧
  decode { fmt := .p, word := 0x3000500#32 } = .ok (.viaT1chW 0 0x00#8) ∧
  decode { fmt := .p, word := 0x2000D00#32 } = .ok (.viaIfrR 0) ∧
  decode { fmt := .m, word := 0x06#32, args := { cycles := 7 } } = .ok (.hubTick 7) ∧
  decode { fmt := .m, word := 0x22#32, args := { source := .debug } } = .ok (.aggClrIrq .debug) ∧
  decode { fmt := .m, word := 0x33#32, args := { name := "via" } } = .ok (.sysDetach "via")

/-- Which words name no operation, and that a step refuses them by name (R117, and the point U8 of
`93_implementation_defined.md`). That format B and M words with a bit above their width are refused is log entry 6, and
that a step takes the first of a list of requests is log entry 1: both are the model's choices. -/
def Obligations.WordsWithoutOperationAreRefused : Prop :=
  (∀ (sel : Byte) (args : Operands),
    if sel.toNat ∈ [0x00, 0x01, 0x02, 0x03, 0x04, 0x05, 0x06, 0x07, 0x10, 0x11, 0x12, 0x18, 0x19, 0x1A,
      0x20, 0x21, 0x22, 0x23, 0x24, 0x25, 0x26, 0x27, 0x30, 0x31, 0x32, 0x33]
    then ∃ i, decode { fmt := .m, word := sel.setWidth 32, args := args } = .ok i
    else decode { fmt := .m, word := sel.setWidth 32, args := args } = .error (.unknownSelector sel)) ∧
  (∀ (w : OpWord) (args : Operands), 2 ^ 8 ≤ w.toNat →
    decode { fmt := .m, word := w, args := args } = .error .wordTooWide) ∧
  (∀ (w : OpWord) (args : Operands),
    if 2 ^ 25 ≤ w.toNat then decode { fmt := .b, word := w, args := args } = .error .wordTooWide
    else ∃ i, decode { fmt := .b, word := w, args := args } = .ok i) ∧
  (∀ (w : OpWord) (args : Operands),
    if 2 ^ 26 ≤ w.toNat then decode { fmt := .p, word := w, args := args } = .error .unknownChip
    else ∃ i, decode { fmt := .p, word := w, args := args } = .ok i) ∧
  (∀ (s : State) (r : Request) (rest : List Request) (e : DecodeError),
    s.requests = r :: rest → decode r = .error e → step s = .refused (.undecodable e))

/-! ## The step -/

/-- A step runs the operation that the first presented request names, on the state without that request (R74, R82);
the request of a table row's word runs on the state it was presented to; and with no operation presented a step
changes nothing (R346). That operations are presented as a list of requests is log entry 1. -/
def Obligations.StepRunsThePresentedOperation : Prop :=
  (∀ (s : State) (r : Request) (rest : List Request) (i : Instr),
    s.requests = r :: rest → decode r = .ok i → step s = exec i { s with requests := rest }) ∧
  (∀ (s : State) (nbits w : Nat) (i : Instr),
    decodeTableWord nbits w = some i → step (s.withFetchWord nbits w) = exec i s) ∧
  (∀ s : State, s.requests = [] → step s = .next s)

/-! ## Invariants -/

/-- Every step keeps the well-formed states well-formed: regions of one kind disjoint, bindings sorted, disjoint and named
once, each ACIA and VIA within its invariants (R23 to R28, R185, R251, R48). That the memory is canonical, that ROM
images and IO regions are lists by rising start and that the source lists hold no source twice is the model's form of
the spec's sets and bytes, log entry 7; that every reference names an instance rests on log entry 4; the ranges of the
parameters in the invariant are log entry 12, and the requests that a step takes log entry 1. -/
def Obligations.EveryStepKeepsWellFormedness : Prop :=
  ∀ s t : State, s.wf → step s = .next t → t.wf

/-- The constructed state is well-formed. Its instances are log entry 3 and its parameters log entry 2 (the model's
choices). -/
def Obligations.ConstructedStateIsWellFormed : Prop := State.reset.wf

/-- Construction (R53, R54): the router and the hub are empty, both source sets are empty, and every ACIA and every VIA
holds its reset values, with the bit time of its own `BAUD` at divide by 1. The reset values of the two chips are the
spec's decisions D13 and D34. That the list of events is empty is the model's choice, log entry 8. The number of
instances and their `BAUD` are log entry 3; nothing here rests on them. -/
def Obligations.ConstructionLeavesResetValues : Prop :=
  State.reset.rtr = { ram := none, roms := [], ios := [] } ∧ State.reset.hub.bindings = [] ∧
  State.reset.agg = { irq := [], nmi := [] } ∧ State.reset.events = [] ∧
  (∀ a ∈ State.reset.acias, ∃ baud port, a =
    { control := 0x00#8, tdr := 0x00#8, rdr := 0x00#8, rxq := [], rxShift := 0x00#8, fe := false, ovrn := false
      pe := false, txActive := false, txCount := 0, rxActive := false, rxCount := 0, baud := baud
      cyclesPerBit := 1000000 / baud, port := port }) ∧
  (∀ v ∈ State.reset.vias, v =
    { orb := 0x00#8, ora := 0x00#8, ddrb := 0x00#8, ddra := 0x00#8, t1c := 0#16, t1l := 0#16, t1run := false
      t2c := 0#16, t2run := false, sr := 0x00#8, acr := 0x00#8, pcr := 0x00#8, ifr := 0#7, ier := 0#7 })

/-- The relation of hub and memory router (R29, decision D4) holds at construction and is kept by every operation
but `RTR.MAPIO`, `HUB.REGISTER` and `HUB.UNREGISTER` invoked by themselves. -/
def Obligations.AttachAndDetachKeepTheHalvesTogether : Prop :=
  halvesAgree State.reset ∧
  ∀ (i : Instr) (s t : State), s.wf → halvesAgree s →
    (∀ start stop p, i ≠ .rtrMapIo start stop p) → (∀ p start stop name, i ≠ .hubRegister p start stop name) →
    (∀ name, i ≠ .hubUnregister name) → exec i s = .next t → halvesAgree t

/-! ## What the whole machine leaves alone -/

/-- RAM changes only by bus writes, by steps whose accesses hold a write, and by the management of the RAM block (R76,
R130, R135, R141, R305); every other operation leaves every byte. That no reset touches RAM (R371) is decisions D8 and
D45. -/
def Obligations.RamChangesOnlyByStoresAndItsManagement : Prop :=
  ∀ (i : Instr) (s t : State), mayChangeRam i = false → exec i s = .next t →
    t.rtr.ram = s.rtr.ram ∧ ∀ a : Nat, ramByte t a = ramByte s a

/-- ROM images, IO regions and bindings change only by the management operations that name them (R25, R54, R143):
no bus access, tick, reset or interrupt operation changes the map. That no reset does is decision D45. -/
def Obligations.MapChangesOnlyByManagement : Prop :=
  ∀ (i : Instr) (s t : State), exec i s = .next t →
    (mayChangeRoms i = false → t.rtr.roms = s.rtr.roms) ∧
    (mayChangeIos i = false → t.rtr.ios = s.rtr.ios) ∧
    (mayChangeHub i = false → t.hub = s.hub)

/-- No operation changes the number of instances, an ACIA's `BAUD` or bound port (R30, R39). That the parameters are a
field of the state that no operation changes is the model's choice, log entry 2; so is the list of the requests still
to come, which no operation changes, log entry 1. -/
def Obligations.ConstructionParametersNeverChange : Prop :=
  ∀ (i : Instr) (s t : State), exec i s = .next t →
    t.params = s.params ∧ t.requests = s.requests ∧
    t.acias.map (fun a => (a.baud, a.port)) = s.acias.map (fun a => (a.baud, a.port)) ∧
    t.vias.length = s.vias.length

/-- The two source sets change only by the operations that name them; no peripheral drives the NMI set (R327; that
reports enter the IRQ set only is decision D39). -/
def Obligations.SourceSetsChangeOnlyByInterruptOperations : Prop :=
  ∀ (i : Instr) (s t : State), exec i s = .next t →
    (mayChangeIrqSet i = false → t.agg.irq = s.agg.irq) ∧
    (mayChangeNmiSet i = false → t.agg.nmi = s.agg.nmi)

/-- A peripheral instance changes only by its own operations and by those that reach it through a region or a
binding: an operation on another instance or chip leaves it alone. -/
def Obligations.InstancesChangeOnlyByOperationsThatReachThem : Prop :=
  ∀ (i : Instr) (s t : State) (k : Nat), exec i s = .next t →
    (mayChangeAcia k i = false → t.acias[k]? = s.acias[k]?) ∧
    (mayChangeVia k i = false → t.vias[k]? = s.vias[k]?)

/-- Over every operation but the two resets of the aggregator, the triggers emitted less the clears emitted are the
change of the IRQ line, which is 1 while the IRQ set is non-empty and else 0 (R290; the clear edge is decision D38).
That events are only appended to a list is the model's record of `emit` (R14), log entry 8. -/
def Obligations.InterruptEdgesBalanceTheIrqSet : Prop :=
  ∀ (i : Instr) (s t : State), exec i s = .next t →
    (∃ l, t.events = s.events ++ l) ∧
    (i ≠ .aggReset → i ≠ .sysReset →
      emitted .cpuTriggerIrq t + emitted .cpuClearIrq s + irqLevel s =
        emitted .cpuTriggerIrq s + emitted .cpuClearIrq t + irqLevel t)

/-- OVRN once set stays set (R32, R176, R381): every operation keeps it but those that may reset that ACIA, which are
its reset, a control write or a bus write to its offset 0 that carries the master reset code, a step that makes such a
bus write, and a system reset where a binding names it (R370; D45). The reduction of address and value is decision D1;
that a ROM shadows the register is the point U1, which the spec fixes and flags. The accesses of a step are log
entry 9. -/
def Obligations.OverrunStaysUntilReset : Prop :=
  ∀ (i : Instr) (s t : State) (k : Nat) (a : Acia),
    s.acias[k]? = some a → a.ovrn = true → mayResetAcia s k i = false → exec i s = .next t →
    ∃ b, t.acias[k]? = some b ∧ b.ovrn = true


/-! ## Bus accesses -/

/-- A read of ROM, of RAM that nothing shadows, and of an unmapped address (R138, R140, R142, R143, R145): the byte,
and nothing else changes. The 16-bit reduction of the address is decision D1; that a ROM shadows what lies beneath is
the point U1, which the spec fixes and flags. -/
def Obligations.BusReadOfMemoryReturnsTheByte : Prop :=
  ∀ (s : State) (addr : Nat), s.wf →
    (∀ b ∈ s.rtr.roms, ∀ x : Byte, b.base ≤ addr % 65536 → b.bytes[addr % 65536 - b.base]? = some x →
      exec (.busRead addr) s = .next { s with reply := .byte x }) ∧
    (¬ romCovered s (addr % 65536) → ¬ ioCovered s (addr % 65536) →
      exec (.busRead addr) s =
        .next { s with
          reply := .byte (match ramByte s (addr % 65536) with
            | some x => x
            | none => 0xFF#8) })

/-- A read that no ROM shadows and an IO region covers is the register read that the offset selects (R105, R144,
R170, R210): the same byte, the same side effects. The 16-bit reduction of the address (R139) is decision D1; that a ROM
shadows what lies beneath is the point U1, which the spec fixes and flags. -/
def Obligations.BusReadOfPeripheralIsItsRegisterRead : Prop :=
  ∀ (s : State) (addr : Nat) (g : IoRegion), s.wf → ¬ romCovered s (addr % 65536) → g ∈ s.rtr.ios →
    g.start ≤ addr % 65536 → addr % 65536 ≤ g.stop →
    exec (.busRead addr) s = exec (readOp g.periph (addr % 65536 - g.start)) s ∧
    ∃ t, exec (.busRead addr) s = .next t ∧ t.rtr = s.rtr ∧ t.hub = s.hub ∧ t.agg = s.agg ∧ t.events = s.events

/-- A write to ROM, to RAM that nothing shadows, and to an unmapped address (R138, R141, R142, R143, R145): only an
unshadowed RAM byte changes, every other byte of RAM and everything else stays. The reductions of address and value
are decision D1; that a ROM shadows what lies beneath is the point U1, which the spec fixes and flags. -/
def Obligations.BusWriteOfMemoryStoresTheByte : Prop :=
  ∀ (s : State) (addr v : Nat), s.wf →
    (romCovered s (addr % 65536) → exec (.busWrite addr v) s = .next { s with reply := .unit }) ∧
    (¬ romCovered s (addr % 65536) → ¬ ioCovered s (addr % 65536) → ramByte s (addr % 65536) = none →
      exec (.busWrite addr v) s = .next { s with reply := .unit }) ∧
    (¬ romCovered s (addr % 65536) → ¬ ioCovered s (addr % 65536) → ramByte s (addr % 65536) ≠ none →
      ∃ ram, exec (.busWrite addr v) s = .next { s with rtr := { s.rtr with ram := ram }, reply := .unit } ∧
        ramByte { s with rtr := { s.rtr with ram := ram } } (addr % 65536) = some (BitVec.ofNat 8 v) ∧
        ∀ x, x ≠ addr % 65536 → ramByte { s with rtr := { s.rtr with ram := ram } } x = ramByte s x)

/-- A write that no ROM shadows and an IO region covers is the register write that the offset selects, and leaves
every byte of memory alone (R105, R144, R170, R210). The reductions of address and value (R139, R72) are decision D1;
that a ROM shadows what lies beneath is the point U1, which the spec fixes and flags. -/
def Obligations.BusWriteOfPeripheralIsItsRegisterWrite : Prop :=
  ∀ (s : State) (addr v : Nat) (g : IoRegion), s.wf → ¬ romCovered s (addr % 65536) → g ∈ s.rtr.ios →
    g.start ≤ addr % 65536 → addr % 65536 ≤ g.stop →
    exec (.busWrite addr v) s = exec (writeOp g.periph (addr % 65536 - g.start) (BitVec.ofNat 8 v)) s ∧
    ∃ t, exec (.busWrite addr v) s = .next t ∧ t.rtr = s.rtr ∧ t.hub = s.hub ∧ t.agg = s.agg ∧
      t.events = s.events ∧ t.env = s.env

/-- A bus read changes block state only at ACIA offset 1 and at VIA offsets 4 and 8 (R76); every other read leaves
everything but the reply and the oracle's place. The statement is of every natural address: its reduction to 16 bits
(R139) is decision D1. -/
def Obligations.BusReadHasOnlyTheListedSideEffects : Prop :=
  ∀ (s t : State) (addr : Nat), exec (.busRead addr) s = .next t →
    (∀ g ∈ s.rtr.ios, g.start ≤ addr % 65536 → addr % 65536 ≤ g.stop →
      (∀ i, g.periph = .acia i → addr % 65536 - g.start ≠ 1) ∧
      (∀ i, g.periph = .via i → addr % 65536 - g.start ≠ 4 ∧ addr % 65536 - g.start ≠ 8)) →
    t = { s with reply := t.reply, env := t.env }

/-- The document's RAM property (R142): after `configureRAM(start, size)`, what is written at an address of the block
that no ROM and no IO region covers is read back. The value written is any number; that it is reduced to a byte (R72,
R141) is decision D1. -/
def Obligations.RamHoldsWhatIsWritten : Prop :=
  ∀ (s : State) (start size addr v : Nat), start ≤ addr → addr < start + size → addr < 65536 →
    ¬ romCovered s addr → ¬ ioCovered s addr →
    ∃ t, runAll [.rtrConfigRam start size, .busWrite addr v, .busRead addr] s =
      some ([.unit, .unit, .byte (BitVec.ofNat 8 v)], t)

/-- The document's ROM property (R143): after `loadROM(data, base)`, a write to `base` has no effect: a read of `base`
gives the first byte of the image. RAM or an IO region may lie beneath: that the ROM has priority (R138) is the point U1,
which the spec fixes and flags for confirmation. -/
def Obligations.RomIgnoresWrites : Prop :=
  ∀ (s : State) (d : Byte) (ds : List Byte) (base v : Nat), base < 65536 →
    ∃ t, runAll [.rtrLoadRom (d :: ds) base, .busWrite base v, .busRead base] s =
      some ([.unit, .unit, .byte d], t)

/-! ## Region management -/

/-- `RTR.CONFIGRAM` (R130) and `RTR.CLEARRAM` (R135): a fresh zero block in place of the old one, wherever that was,
and every byte of the block zeroed. That size 0 leaves no RAM is decision D3. -/
def Obligations.RamIsInstalledAndClearedToZero : Prop :=
  (∀ (s : State) (start size : Nat), ∃ ram,
    exec (.rtrConfigRam start size) s = .next { s with rtr := { s.rtr with ram := ram }, reply := .unit } ∧
    (ram = none ↔ size = 0) ∧
    ∀ a, ramByte { s with rtr := { s.rtr with ram := ram } } a =
      if start ≤ a ∧ a < start + size then some 0x00#8 else none) ∧
  (∀ s : State, ∃ ram,
    exec .rtrClearRam s = .next { s with rtr := { s.rtr with ram := ram }, reply := .unit } ∧
    (s.rtr.ram = none → ram = none) ∧
    ∀ a, ramByte { s with rtr := { s.rtr with ram := ram } } a = (ramByte s a).map fun _ => 0x00#8)

/-- `RTR.LOADROM` (R131): the new image, and every old one that does not overlap it; nothing for an empty image
(decision D3). -/
def Obligations.LoadRomReplacesOverlappingImages : Prop :=
  (∀ (s : State) (start : Nat), exec (.rtrLoadRom [] start) s = .next { s with reply := .unit }) ∧
  (∀ (s : State) (start : Nat) (data : List Byte), data ≠ [] →
    ∃ roms, exec (.rtrLoadRom data start) s =
        .next { s with rtr := { s.rtr with roms := roms }, reply := .unit } ∧
      ∀ b : RomBlock, b ∈ roms ↔ b = { base := start, bytes := data } ∨
        b ∈ s.rtr.roms ∧ ¬ rangesMeet b.base (b.base + b.bytes.length - 1) start (start + data.length - 1))

/-- `RTR.MAPIO` (R132): the new region, and every old one that does not overlap it. An inverted range is refused with
`InvalidRange` and no change (R323, decision D3). -/
def Obligations.MapIoReplacesOverlappingRegions : Prop :=
  ∀ (s : State) (start stop : Nat) (p : PeriphRef), periphExists s p = true →
    (start ≤ stop → ∃ ios, exec (.rtrMapIo start stop p) s =
        .next { s with rtr := { s.rtr with ios := ios }, reply := .unit } ∧
      ∀ g : IoRegion, g ∈ ios ↔ g = { start := start, stop := stop, periph := p } ∨
        g ∈ s.rtr.ios ∧ ¬ rangesMeet g.start g.stop start stop) ∧
    (stop < start → exec (.rtrMapIo start stop p) s =
      .next { s with reply := .error (.invalidRange start stop) })

/-- `HUB.REGISTER` admits a range that meets no binding under a new name, and keeps the list sorted (R133). -/
def Obligations.RegisterInsertsInOrder : Prop :=
  ∀ (s : State) (p : PeriphRef) (start stop : Nat) (name : String), periphExists s p = true → start ≤ stop →
    (∀ b ∈ s.hub.bindings, b.name ≠ name ∧ ¬ rangesMeet b.start b.stop start stop) →
    ∃ bindings, exec (.hubRegister p start stop name) s =
        .next { s with hub := { bindings := bindings }, reply := .unit } ∧
      bindings.Perm ({ name := name, start := start, stop := stop, periph := p } :: s.hub.bindings) ∧
      (hubWf s.hub → bindings.Pairwise fun x y => x.start < y.start)

/-- `HUB.REGISTER`'s errors, in the order they are tested, with what each reports; nothing else changes (R133, R321,
R335). `InvalidRange`, `DuplicateName` and the reported binding of lowest start are decisions D3, D5 and D6. -/
def Obligations.RegisterErrorsChangeNothing : Prop :=
  ∀ (s : State) (p : PeriphRef) (start stop : Nat) (name : String), periphExists s p = true →
    (stop < start → exec (.hubRegister p start stop name) s =
      .next { s with reply := .error (.invalidRange start stop) }) ∧
    (start ≤ stop → (∃ b ∈ s.hub.bindings, b.name = name) → exec (.hubRegister p start stop name) s =
      .next { s with reply := .error (.duplicateName name) }) ∧
    (start ≤ stop → (∀ b ∈ s.hub.bindings, b.name ≠ name) → hubWf s.hub →
      ∀ c ∈ s.hub.bindings, rangesMeet c.start c.stop start stop →
        (∀ b ∈ s.hub.bindings, rangesMeet b.start b.stop start stop → c.start ≤ b.start) →
        exec (.hubRegister p start stop name) s =
          .next { s with reply := .error (.addressConflict start stop c.start c.stop) })

/-- `HUB.UNREGISTER` (R134), selector `0x05`: the binding of the name goes, the others keep their order, nothing else
changes, and nothing at all for an absent name. -/
def Obligations.UnregisterRemovesTheName : Prop :=
  ∀ (s : State) (name : String), ∃ bindings,
    exec (.hubUnregister name) s = .next { s with hub := { bindings := bindings }, reply := .unit } ∧
    bindings.Sublist s.hub.bindings ∧
    (∀ b, b ∈ bindings ↔ b ∈ s.hub.bindings ∧ b.name ≠ name) ∧
    ((∀ b ∈ s.hub.bindings, b.name ≠ name) → bindings = s.hub.bindings) ∧
    ∀ args : Operands, args.name = name → decode { fmt := .m, word := 0x05#32, args := args } = .ok (.hubUnregister name)

/-- `HUB.TICK` (R136) is the tick operation of every binding's peripheral, once each, in list order. That a tick of 0
cycles is allowed is decisions D44 and D48. -/
def Obligations.HubTickTicksEveryBindingInOrder : Prop :=
  ∀ (s : State) (c : Nat), (∀ b ∈ s.hub.bindings, periphExists s b.periph = true) →
    ∃ replies t, runAll (s.hub.bindings.map fun b => tickOp c b.periph) s = some (replies, t) ∧
      exec (.hubTick c) s = .next { t with reply := .unit }

/-- `HUB.COLLECT` (R137), selector `0x07`: the names, in list order, of exactly the bindings whose peripheral reports;
nothing changes. -/
def Obligations.HubCollectNamesTheReporting : Prop :=
  ∀ s : State, s.wf → ∃ names,
    exec .hubCollect s = .next { s with reply := .names names } ∧
    names.Sublist (s.hub.bindings.map Binding.name) ∧
    (∀ b ∈ s.hub.bindings, b.name ∈ names ↔ reports s b) ∧
    ∀ args : Operands, decode { fmt := .m, word := 0x07#32, args := args } = .ok .hubCollect

/-! ## The ACIA -/

/-- `ACIA.STATUS.R` (R172, R32), bit by bit; no block state changes, and only a bound port is asked. The bit numbers,
the polarity parameter and the live IRQ bit are decisions D9, D21 and D23; what an oracle answers past its list is
free (log entry 5). -/
def Obligations.StatusReadShowsTheFlags : Prop :=
  ∀ (s : State) (i : Nat) (a : Acia), s.acias[i]? = some a →
    ∃ (x : Byte) (ready : Bool) (env : Env),
      exec (.aciaStatusR i) s = .next { s with env := env, reply := .byte x } ∧
      (a.port = none → ready = false ∧ env = s.env) ∧
      (a.port ≠ none → ∀ b rest, s.env.ready = b :: rest → ready = b ∧ env = { s.env with ready := rest }) ∧
      (x.getLsbD 0 = true ↔ a.rxq ≠ []) ∧
      (x.getLsbD 1 = true ↔ a.txActive = false) ∧
      (x.getLsbD 2 = true ↔ ready ≠ s.params.ctsDcdInvert) ∧
      (x.getLsbD 3 = true ↔ ready ≠ s.params.ctsDcdInvert) ∧
      (x.getLsbD 4 = true ↔ a.fe = true) ∧
      (x.getLsbD 5 = true ↔ a.ovrn = true) ∧
      (x.getLsbD 6 = true ↔ a.pe = true) ∧
      (x.getLsbD 7 = true ↔ aciaInterrupts s.params a)

/-- `ACIA.CTRL.W` (R171, R179) for each value of bits 1:0, and `ACIA.RESET` (R181), which has the effect of a master
reset. The reset values and that the master reset byte is not stored are decisions D13 and D14; the divide codes and
the single floor are D10 and D15; that running countdowns are not rescaled is D25. -/
def Obligations.ControlWriteSetsTheBitTimeOrResets : Prop :=
  ∀ (s : State) (i : Nat) (a : Acia) (v : Byte), s.acias[i]? = some a →
    (v.toNat % 4 = 0 → exec (.aciaCtrlW i v) s = .next { s with
      acias := s.acias.set i { a with control := v, cyclesPerBit := 1000000 / a.baud }, reply := .unit }) ∧
    (v.toNat % 4 = 1 → exec (.aciaCtrlW i v) s = .next { s with
      acias := s.acias.set i { a with control := v, cyclesPerBit := 16000000 / a.baud }, reply := .unit }) ∧
    (v.toNat % 4 = 2 → exec (.aciaCtrlW i v) s = .next { s with
      acias := s.acias.set i { a with control := v, cyclesPerBit := 64000000 / a.baud }, reply := .unit }) ∧
    (v.toNat % 4 = 3 → exec (.aciaCtrlW i v) s = exec (.aciaReset i) s) ∧
    exec (.aciaReset i) s = .next { s with
      acias := s.acias.set i
        { control := 0x00#8, tdr := 0x00#8, rdr := 0x00#8, rxq := [], rxShift := 0x00#8, fe := false
          ovrn := false, pe := false, txActive := false, txCount := 0, rxActive := false, rxCount := 0
          baud := a.baud, cyclesPerBit := 1000000 / a.baud, port := a.port }
      reply := .unit }

/-- `ACIA.RDR.R` (R174): dequeues the oldest byte; with the queue empty the last byte read comes again and nothing
changes (decision D19). OVRN is not cleared. -/
def Obligations.DataReadDequeues : Prop :=
  ∀ (s : State) (i : Nat) (a : Acia), s.acias[i]? = some a →
    (∀ b rest, a.rxq = b :: rest → exec (.aciaRdrR i) s = .next { s with
      acias := s.acias.set i { a with rdr := b, rxq := rest }, reply := .byte b }) ∧
    (a.rxq = [] → exec (.aciaRdrR i) s = .next { s with reply := .byte a.rdr })

/-- `ACIA.TDR.W` (R173): ignored while a transmission is in flight, else latched and counted down from ten bit
times. That it starts with no port bound and a port not ready is decision D22. -/
def Obligations.DataWriteStartsOrIsIgnored : Prop :=
  ∀ (s : State) (i : Nat) (a : Acia) (v : Byte), s.acias[i]? = some a →
    (a.txActive = true → exec (.aciaTdrW i v) s = .next { s with reply := .unit }) ∧
    (a.txActive = false → exec (.aciaTdrW i v) s = .next { s with
      acias := s.acias.set i { a with tdr := v, txActive := true, txCount := 10 * a.cyclesPerBit }
      reply := .unit })

/-- Undefined offsets (R113, R182, R243): a read returns `0xFF` and changes nothing; a write is dropped (R183, R244,
decision D24). -/
def Obligations.UndefinedOffsetsReadOnesAndDropWrites : Prop :=
  ∀ (s : State) (i : Nat) (off : Half) (d : Byte),
    (∀ a, s.acias[i]? = some a →
      exec (.aciaUndefR i off) s = .next { s with reply := .byte 0xFF#8 } ∧
      exec (.aciaUndefW i off d) s = .next { s with reply := .unit }) ∧
    (∀ v, s.vias[i]? = some v →
      exec (.viaUndefR i off) s = .next { s with reply := .byte 0xFF#8 } ∧
      exec (.viaUndefW i off d) s = .next { s with reply := .unit })

/-- `ACIA.IRQ` (R178): the interrupt condition; nothing changes. Which transmitter control values select the
transmit interrupt is decision D11; that the condition is not latched is D23. -/
def Obligations.AciaReportsItsInterruptCondition : Prop :=
  ∀ (s : State) (i : Nat) (a : Acia), s.acias[i]? = some a →
    ∃ b, exec (.aciaIrq i) s = .next { s with reply := .bool b } ∧ (b = true ↔ aciaInterrupts s.params a)

/-- The transmit part of `ACIA.TICK` (R175) and its frame: only this instance, the oracle's place and the events
change, and the transmit side is idle, counted down, or finished with one `port.write` to a bound port. -/
def Obligations.TickAdvancesTheTransmitter : Prop :=
  ∀ (s : State) (i c : Nat) (a : Acia), s.acias[i]? = some a →
    ∃ (b : Acia) (env : Env) (out : List Event),
      exec (.aciaTick i c) s = .next { s with
        acias := s.acias.set i b, env := env, events := s.events ++ out, reply := .unit } ∧
      (b.control, b.tdr, b.rdr, b.fe, b.pe, b.baud, b.cyclesPerBit, b.port) =
        (a.control, a.tdr, a.rdr, a.fe, a.pe, a.baud, a.cyclesPerBit, a.port) ∧
      (a.txActive = false → b.txActive = false ∧ b.txCount = a.txCount ∧ out = []) ∧
      (a.txActive = true → c < a.txCount → b.txActive = true ∧ b.txCount + c = a.txCount ∧ out = []) ∧
      (a.txActive = true → a.txCount ≤ c → b.txActive = false ∧ b.txCount = 0 ∧
        out = match a.port with
          | some k => [.portWrite k a.tdr]
          | none => [])

/-- The receive parts of `ACIA.TICK` (R176, R177) in their order (R184, decision D20): a reception counts down; at
expiry its count is 0, the byte is queued if there is room, and OVRN is set if an unread byte was waiting (decisions
D17, D18); then an idle receiver asks its port whether it has data, and only then for the byte; a byte starts a
reception, and with none the receiver stays as it is. What a port answers is the head of the state's list of answers
and, where the list has run out, a free value at the oracle's place, which moves on: that is the model's form of the
oracle, log entry 5, and the statement holds for every value of it. -/
def Obligations.TickAdvancesTheReceiver : Prop :=
  ∀ (s : State) (i c : Nat) (a : Acia), s.acias[i]? = some a →
    ∃ (b : Acia) (env : Env) (out : List Event),
      exec (.aciaTick i c) s = .next { s with
        acias := s.acias.set i b, env := env, events := s.events ++ out, reply := .unit } ∧
      (a.rxActive = true → c < a.rxCount →
        b.rxActive = true ∧ b.rxCount + c = a.rxCount ∧ b.rxShift = a.rxShift ∧ b.rxq = a.rxq ∧
          b.ovrn = a.ovrn ∧ env = s.env) ∧
      (a.rxActive = true → a.rxCount ≤ c →
        (b.ovrn = true ↔ a.ovrn = true ∨ a.rxq ≠ []) ∧
        b.rxq = if a.rxq.length < s.params.rxqCap then a.rxq ++ [a.rxShift] else a.rxq) ∧
      (a.rxActive = false → b.rxq = a.rxq ∧ b.ovrn = a.ovrn) ∧
      ((a.rxActive = false ∨ a.rxCount ≤ c) →
        (a.port = none → receiverIdleAfter a b ∧ env = s.env) ∧
        (∀ k, a.port = some k →
          ∃ (has : Bool) (env1 : Env),
            (∀ x rest, s.env.hasData = x :: rest → has = x ∧ env1 = { s.env with hasData := rest }) ∧
            (s.env.hasData = [] → has = Config.portHasData k s.env.asked ∧
              env1 = { s.env with asked := s.env.asked + 1 }) ∧
            (has = false → receiverIdleAfter a b ∧ env = env1) ∧
            (has = true → ∃ got : Option Byte,
              (∀ x rest, env1.reads = x :: rest → got = x ∧ env = { env1 with reads := rest }) ∧
              (env1.reads = [] → got = Config.portRead k env1.asked ∧
                env = { env1 with asked := env1.asked + 1 }) ∧
              (got = none → receiverIdleAfter a b) ∧
              (∀ x, got = some x → b.rxActive = true ∧ b.rxShift = x ∧ b.rxCount = 10 * a.cyclesPerBit))))

/-- The document's transmit property (R173, R175, R180, R396): a byte written to an idle ACIA with a bound port reaches the
port at the first of any ticks that completes ten bit times and not before, and TDRE is then set again. That the port
need not be ready is decision D22, and that a tick may be of 0 cycles is D44. -/
def Obligations.WrittenByteReachesThePortAfterTenBitTimes : Prop :=
  ∀ (s : State) (i k last : Nat) (ticks : List Nat) (a : Acia) (v : Byte), s.acias[i]? = some a →
    a.txActive = false → a.port = some k →
    ticks.sum < 10 * a.cyclesPerBit → 10 * a.cyclesPerBit ≤ ticks.sum + last →
    ∃ replies t u b1 b2, runAll (.aciaTdrW i v :: ticks.map fun c => .aciaTick i c) s = some (replies, t) ∧
      t.events = s.events ∧ t.acias[i]? = some b1 ∧ b1.txActive = true ∧
      exec (.aciaTick i last) t = .next u ∧ u.events = s.events ++ [.portWrite k v] ∧
      u.acias[i]? = some b2 ∧ b2.txActive = false


/-! ## The VIA -/

/-- The register reads without side effect (R211, R213, R215, R217, R221, R223, R225, R229, R231, R233, R235, R241):
the byte, and nothing else changes. That the port reads and the reads of offsets 5, 6, 7 and 9 have no side effect
are decisions D35 and D37; the byte placement of the timers is D51. -/
def Obligations.PlainRegisterReadsReturnTheRegister : Prop :=
  ∀ (s : State) (i : Nat) (v : Via), s.vias[i]? = some v →
    exec (.viaOrbR i) s = .next { s with reply := .byte v.orb } ∧
    exec (.viaOraR i) s = .next { s with reply := .byte v.ora } ∧
    exec (.viaOranhR i) s = .next { s with reply := .byte v.ora } ∧
    exec (.viaDdrbR i) s = .next { s with reply := .byte v.ddrb } ∧
    exec (.viaDdraR i) s = .next { s with reply := .byte v.ddra } ∧
    exec (.viaSrR i) s = .next { s with reply := .byte v.sr } ∧
    exec (.viaAcrR i) s = .next { s with reply := .byte v.acr } ∧
    exec (.viaPcrR i) s = .next { s with reply := .byte v.pcr } ∧
    exec (.viaT1chR i) s = .next { s with reply := .byte (BitVec.ofNat 8 (v.t1c.toNat / 256)) } ∧
    exec (.viaT1llR i) s = .next { s with reply := .byte (BitVec.ofNat 8 (v.t1l.toNat % 256)) } ∧
    exec (.viaT1lhR i) s = .next { s with reply := .byte (BitVec.ofNat 8 (v.t1l.toNat / 256)) } ∧
    exec (.viaT2chR i) s = .next { s with reply := .byte (BitVec.ofNat 8 (v.t2c.toNat / 256)) }

/-- The counter-low reads (R219, R227): the low byte, and the timer's flag, and no other flag, is cleared. The flags'
bit numbers are decision D27. -/
def Obligations.CounterLowReadsAcknowledge : Prop :=
  ∀ (s : State) (i : Nat) (v : Via), s.vias[i]? = some v →
    (∃ f : BitVec 7,
      exec (.viaT1clR i) s = .next { s with
        vias := s.vias.set i { v with ifr := f }, reply := .byte (BitVec.ofNat 8 (v.t1c.toNat % 256)) } ∧
      f.getLsbD 6 = false ∧ ∀ k < 6, f.getLsbD k = v.ifr.getLsbD k) ∧
    (∃ f : BitVec 7,
      exec (.viaT2clR i) s = .next { s with
        vias := s.vias.set i { v with ifr := f }, reply := .byte (BitVec.ofNat 8 (v.t2c.toNat % 256)) } ∧
      f.getLsbD 5 = false ∧ ∀ k < 7, k ≠ 5 → f.getLsbD k = v.ifr.getLsbD k)

/-- The port writes (R212, R214, R242): each bit is the written one where the direction bit is output, and keeps its
value where it is input; nothing else changes. That 1 means output is decision D36. -/
def Obligations.PortWritesAffectOnlyOutputBits : Prop :=
  ∀ (s : State) (i : Nat) (v : Via) (d : Byte), s.vias[i]? = some v →
    (∃ x : Byte,
      exec (.viaOrbW i d) s = .next { s with vias := s.vias.set i { v with orb := x }, reply := .unit } ∧
      ∀ k < 8, x.getLsbD k = if v.ddrb.getLsbD k then d.getLsbD k else v.orb.getLsbD k) ∧
    (∃ x : Byte,
      exec (.viaOraW i d) s = .next { s with vias := s.vias.set i { v with ora := x }, reply := .unit } ∧
      exec (.viaOranhW i d) s = .next { s with vias := s.vias.set i { v with ora := x }, reply := .unit } ∧
      ∀ k < 8, x.getLsbD k = if v.ddra.getLsbD k then d.getLsbD k else v.ora.getLsbD k)

/-- The registers that a write stores verbatim (R216, R218, R232, R234, R236), by name and by offset; nothing else
changes: no port byte, no flag, no timer. -/
def Obligations.PlainRegisterWritesStoreTheByte : Prop :=
  ∀ (s : State) (i : Nat) (v : Via) (d : Byte), s.vias[i]? = some v →
    exec (.viaDdrbW i d) s = .next { s with vias := s.vias.set i { v with ddrb := d }, reply := .unit } ∧
    exec (.viaDdraW i d) s = .next { s with vias := s.vias.set i { v with ddra := d }, reply := .unit } ∧
    exec (.viaSrW i d) s = .next { s with vias := s.vias.set i { v with sr := d }, reply := .unit } ∧
    exec (.viaAcrW i d) s = .next { s with vias := s.vias.set i { v with acr := d }, reply := .unit } ∧
    exec (.viaPcrW i d) s = .next { s with vias := s.vias.set i { v with pcr := d }, reply := .unit } ∧
    writeOp (.via i) 0x02 d = .viaDdrbW i d ∧ writeOp (.via i) 0x03 d = .viaDdraW i d ∧
    writeOp (.via i) 0x0A d = .viaSrW i d ∧ writeOp (.via i) 0x0B d = .viaAcrW i d ∧
    writeOp (.via i) 0x0C d = .viaPcrW i d

/-- The Timer 1 writes (R220, R222, R224, R226, R250): the low writes change the latch's low byte alone; the high
writes change the latch's high byte, load the counter from the latch, run the timer, and clear its flag and no
other. That the counter's offsets write the latch is decisions D28 and D29; the flag's bit number is D27. -/
def Obligations.Timer1WritesGoThroughTheLatch : Prop :=
  ∀ (s : State) (i : Nat) (v : Via) (d : Byte), s.vias[i]? = some v →
    (∃ n : Half, n.toNat = v.t1l.toNat / 256 * 256 + d.toNat ∧
      exec (.viaT1clW i d) s = .next { s with vias := s.vias.set i { v with t1l := n }, reply := .unit } ∧
      exec (.viaT1llW i d) s = .next { s with vias := s.vias.set i { v with t1l := n }, reply := .unit }) ∧
    (∃ (n : Half) (f : BitVec 7), n.toNat = d.toNat * 256 + v.t1l.toNat % 256 ∧
      f.getLsbD 6 = false ∧ (∀ k < 6, f.getLsbD k = v.ifr.getLsbD k) ∧
      exec (.viaT1chW i d) s = .next { s with
        vias := s.vias.set i { v with t1l := n, t1c := n, t1run := true, ifr := f }, reply := .unit } ∧
      exec (.viaT1lhW i d) s = .next { s with
        vias := s.vias.set i { v with t1l := n, t1c := n, t1run := true, ifr := f }, reply := .unit })

/-- The Timer 2 writes (R228, R230): the low write changes the counter's low byte alone; the high write changes its
high byte, runs the timer, and clears its flag and no other. That there is no latch is decision D30; the flag's bit
number is D27. -/
def Obligations.Timer2WritesGoToTheCounter : Prop :=
  ∀ (s : State) (i : Nat) (v : Via) (d : Byte), s.vias[i]? = some v →
    (∃ n : Half, n.toNat = v.t2c.toNat / 256 * 256 + d.toNat ∧
      exec (.viaT2clW i d) s = .next { s with vias := s.vias.set i { v with t2c := n }, reply := .unit }) ∧
    (∃ (n : Half) (f : BitVec 7), n.toNat = d.toNat * 256 + v.t2c.toNat % 256 ∧
      f.getLsbD 5 = false ∧ (∀ k < 7, k ≠ 5 → f.getLsbD k = v.ifr.getLsbD k) ∧
      exec (.viaT2chW i d) s = .next { s with
        vias := s.vias.set i { v with t2c := n, t2run := true, ifr := f }, reply := .unit })

/-- `VIA.IFR.R`, `VIA.IER.R` and `VIA.IRQ` (R237, R239, R248): the seven flags under the synthesized bit 7, the seven
enables under the parameter `IER_READ_BIT7` (decision D32), and the interrupt condition; nothing changes. -/
def Obligations.FlagAndEnableReadsShowTheirBits : Prop :=
  ∀ (s : State) (i : Nat) (v : Via), s.vias[i]? = some v →
    (∃ x : Byte, exec (.viaIfrR i) s = .next { s with reply := .byte x } ∧
      (∀ k < 7, x.getLsbD k = v.ifr.getLsbD k) ∧ (x.getLsbD 7 = true ↔ viaInterrupts v)) ∧
    (∃ x : Byte, exec (.viaIerR i) s = .next { s with reply := .byte x } ∧
      (∀ k < 7, x.getLsbD k = v.ier.getLsbD k) ∧ x.getLsbD 7 = s.params.ierReadBit7) ∧
    (∃ b, exec (.viaIrq i) s = .next { s with reply := .bool b } ∧ (b = true ↔ viaInterrupts v))

/-- `VIA.IFR.W` and `VIA.IER.W` (R238, R240, R107, R108): a flag is cleared where the written bit is 1; an enable is
set or cleared where the written bit is 1, as bit 7 says. That bit 7 of a flag write is ignored is decision D33. -/
def Obligations.FlagWritesClearAndEnableWritesSetOrClear : Prop :=
  ∀ (s : State) (i : Nat) (v : Via) (d : Byte), s.vias[i]? = some v →
    (∃ f : BitVec 7,
      exec (.viaIfrW i d) s = .next { s with vias := s.vias.set i { v with ifr := f }, reply := .unit } ∧
      ∀ k < 7, f.getLsbD k = (v.ifr.getLsbD k && !d.getLsbD k)) ∧
    (∃ e : BitVec 7,
      exec (.viaIerW i d) s = .next { s with vias := s.vias.set i { v with ier := e }, reply := .unit } ∧
      ∀ k < 7, e.getLsbD k =
        if d.getLsbD k then d.getLsbD 7 else v.ier.getLsbD k)

/-- `VIA.TICK` (R245, R246, R247): each running timer counts down by the cycles; at or below 0 it sets its flag;
Timer 1 then reloads and runs on in continuous mode, else it and Timer 2 stop at 0. A stopped timer does nothing.
That the overshoot is discarded and a one-shot counter holds 0 are decision D31, the flags' bit numbers D27, and a tick
of 0 cycles D44. -/
def Obligations.ViaTickCountsTheTimersDown : Prop :=
  ∀ (s : State) (i c : Nat) (v : Via), s.vias[i]? = some v →
    ∃ (t1 t2 : Half) (r1 r2 : Bool) (f : BitVec 7),
      exec (.viaTick i c) s = .next { s with
        vias := s.vias.set i { v with t1c := t1, t1run := r1, t2c := t2, t2run := r2, ifr := f }
        reply := .unit } ∧
      (∀ k < 5, f.getLsbD k = v.ifr.getLsbD k) ∧
      (v.t1run = false → t1 = v.t1c ∧ r1 = false ∧ f.getLsbD 6 = v.ifr.getLsbD 6) ∧
      (v.t1run = true → c < v.t1c.toNat →
        t1.toNat + c = v.t1c.toNat ∧ r1 = true ∧ f.getLsbD 6 = v.ifr.getLsbD 6) ∧
      (v.t1run = true → v.t1c.toNat ≤ c → f.getLsbD 6 = true ∧
        (v.acr.getLsbD 6 = true → t1 = v.t1l ∧ r1 = true) ∧
        (v.acr.getLsbD 6 = false → t1 = 0#16 ∧ r1 = false)) ∧
      (v.t2run = false → t2 = v.t2c ∧ r2 = false ∧ f.getLsbD 5 = v.ifr.getLsbD 5) ∧
      (v.t2run = true → c < v.t2c.toNat →
        t2.toNat + c = v.t2c.toNat ∧ r2 = true ∧ f.getLsbD 5 = v.ifr.getLsbD 5) ∧
      (v.t2run = true → v.t2c.toNat ≤ c → f.getLsbD 5 = true ∧ t2 = 0#16 ∧ r2 = false)

/-- `VIA.RESET` (R249): every field 0 and both timers stopped (decision D34); afterwards the flag register reads 0, the
enable register reads 0 but for bit 7, and no interrupt is reported. -/
def Obligations.ViaResetClearsEveryField : Prop :=
  ∀ (s : State) (i : Nat) (v : Via), s.vias[i]? = some v →
    exec (.viaReset i) s = .next { s with
      vias := s.vias.set i
        { orb := 0x00#8, ora := 0x00#8, ddrb := 0x00#8, ddra := 0x00#8, t1c := 0#16, t1l := 0#16
          t1run := false, t2c := 0#16, t2run := false, sr := 0x00#8, acr := 0x00#8, pcr := 0x00#8
          ifr := 0#7, ier := 0#7 }
      reply := .unit } ∧
    ∃ t, runAll [.viaReset i, .viaIfrR i, .viaIerR i, .viaIrq i] s =
      some ([.unit, .byte 0x00#8, .byte (if s.params.ierReadBit7 then 0x80#8 else 0x00#8), .bool false], t)

/-- The document's Timer 1 property (R120, R245, R396), at its expiry and around it: after `setTimer1(n)`, a tick of
fewer than `n` cycles leaves the flag clear and the timer running, a tick of `n` or more sets it; in continuous mode the
counter then holds `n` again and runs on, else it has stopped. The two writes that `setTimer1(n)` stands for are
decision D54 (and D28, D29); that a tick beyond `n` reloads exactly `n` and that a stopped counter holds 0 are D31; the
flag's bit number is D27. -/
def Obligations.Timer1ExpiresAfterItsCount : Prop :=
  ∀ (s : State) (i n c : Nat) (v : Via), s.vias[i]? = some v → n < 65536 →
    ∃ t w, runAll [.viaT1clW i (BitVec.ofNat 8 (n % 256)), .viaT1chW i (BitVec.ofNat 8 (n / 256)), .viaTick i c] s =
        some ([.unit, .unit, .unit], t) ∧ t.vias[i]? = some w ∧ w.t1l.toNat = n ∧
      (c < n → w.ifr.getLsbD 6 = false ∧ w.t1run = true ∧ w.t1c.toNat + c = n) ∧
      (n ≤ c → w.ifr.getLsbD 6 = true ∧ w.t1run = v.acr.getLsbD 6 ∧
        w.t1c.toNat = if v.acr.getLsbD 6 then n else 0)

/-! ## The aggregator -/

/-- `AGG.TRIGIRQ` and `AGG.TRIGNMI` (R280, R281): the source joins its set, and the edge event comes exactly when the
set was empty; the other set and everything else stay. The selectors `0x20` and `0x21` name these operations. -/
def Obligations.TriggersFireOnceUntilTheSetEmpties : Prop :=
  ∀ (s : State) (src : Source),
    (∃ irq, exec (.aggTrigIrq src) s = .next { s with
        agg := { s.agg with irq := irq }
        events := if s.agg.irq = [] then s.events ++ [.cpuTriggerIrq] else s.events
        reply := .unit } ∧
      ∀ x, x ∈ irq ↔ x = src ∨ x ∈ s.agg.irq) ∧
    (∃ nmi, exec (.aggTrigNmi src) s = .next { s with
        agg := { s.agg with nmi := nmi }
        events := if s.agg.nmi = [] then s.events ++ [.cpuTriggerNmi] else s.events
        reply := .unit } ∧
      ∀ x, x ∈ nmi ↔ x = src ∨ x ∈ s.agg.nmi) ∧
    (∀ args : Operands, args.source = src →
      decode { fmt := .m, word := 0x20#32, args := args } = .ok (.aggTrigIrq src) ∧
      decode { fmt := .m, word := 0x21#32, args := args } = .ok (.aggTrigNmi src))

/-- `AGG.CLRIRQ` and `AGG.CLRNMI` (R282, R283): the source leaves its set; `cpu.clearIRQ()` comes exactly when the IRQ
set goes from non-empty to empty (decision D38), and nothing for NMI. -/
def Obligations.ClearsDropTheLineWhenTheSetEmpties : Prop :=
  ∀ (s : State) (src : Source),
    (∃ irq, exec (.aggClrIrq src) s = .next { s with
        agg := { s.agg with irq := irq }
        events := if s.agg.irq ≠ [] ∧ irq = [] then s.events ++ [.cpuClearIrq] else s.events
        reply := .unit } ∧
      ∀ x, x ∈ irq ↔ x ∈ s.agg.irq ∧ x ≠ src) ∧
    (∃ nmi, exec (.aggClrNmi src) s = .next { s with agg := { s.agg with nmi := nmi }, reply := .unit } ∧
      ∀ x, x ∈ nmi ↔ x ∈ s.agg.nmi ∧ x ≠ src)

/-- `AGG.UPDATE` (R284): afterwards a peripheral source is in the IRQ set exactly if its name is listed; the other
sources and the NMI set stay; at most one edge is emitted, a trigger if the set was empty and is not, a clear if it
was not and is. That reports enter the IRQ set only, the order of additions and removals, and the clear edge are
decisions D39, D40 and D38. -/
def Obligations.UpdateReconcilesThePeripheralSources : Prop :=
  ∀ (s : State) (names : List String),
    ∃ irq out, exec (.aggUpdate names) s = .next { s with
        agg := { s.agg with irq := irq }, events := s.events ++ out, reply := .unit } ∧
      (∀ n, Source.peripheral n ∈ irq ↔ n ∈ names) ∧
      (Source.debug ∈ irq ↔ Source.debug ∈ s.agg.irq) ∧
      (∀ tag, Source.other tag ∈ irq ↔ Source.other tag ∈ s.agg.irq) ∧
      out = if s.agg.irq = [] ∧ irq ≠ [] then [.cpuTriggerIrq]
        else if s.agg.irq ≠ [] ∧ irq = [] then [.cpuClearIrq] else []

/-- `AGG.RESET`, `AGG.IRQPEND` and `AGG.NMIPEND` (R285, R286, R287): both sets emptied without an event (decision
D41); the pending flags are non-emptiness of the sets and reading them changes nothing. -/
def Obligations.PendingFlagsAreSetNonemptiness : Prop :=
  ∀ s : State,
    exec .aggReset s = .next { s with agg := { irq := [], nmi := [] }, reply := .unit } ∧
    (∃ b, exec .aggIrqPend s = .next { s with reply := .bool b } ∧ (b = true ↔ ∃ x, x ∈ s.agg.irq)) ∧
    (∃ b, exec .aggNmiPend s = .next { s with reply := .bool b } ∧ (b = true ↔ ∃ x, x ∈ s.agg.nmi))

/-! ## The composite operations -/

/-- `SYS.STEP` (R305, R309) is the engine's bus accesses in their order and then, unless the engine reports 0 cycles,
`HUB.TICK`, `HUB.COLLECT` and `AGG.UPDATE` of the collected names, in this order (decision D43). That the accesses and
the cycles are operands is log entry 9, and that the reply carries the bytes read log entry 8: the model's choices. -/
def Obligations.SystemStepIsItsPartsInOrder : Prop :=
  ∀ (s : State) (accesses : List Access) (c : Nat),
    ∃ replies t, runAll (accesses.map accessOp) s = some (replies, t) ∧
      (c = 0 → exec (.sysStep accesses c) s = .next { t with reply := .halted (replyBytes replies) }) ∧
      (c ≠ 0 → ∃ u v names,
        runAll [.hubTick c, .hubCollect] t = some ([.unit, .names names], u) ∧
        exec (.aggUpdate names) u = .next v ∧
        exec (.sysStep accesses c) s = .next { v with reply := .ran c (replyBytes replies) })

/-- After a `SYS.STEP` of at least one cycle the IRQ set holds a peripheral source exactly for the bindings that
report at that moment, and the manual sources and the NMI set are as before (R284, R305, R328, R329, R386). That reports
enter the IRQ set only is decision D39, the order of the step D43; its accesses as operands are log entry 9. -/
def Obligations.StepLeavesTheLineAtTheReports : Prop :=
  ∀ (s t : State) (accesses : List Access) (c : Nat), s.wf → c ≠ 0 → exec (.sysStep accesses c) s = .next t →
    (∀ n, Source.peripheral n ∈ t.agg.irq ↔ ∃ b ∈ t.hub.bindings, b.name = n ∧ reports t b) ∧
    (Source.debug ∈ t.agg.irq ↔ Source.debug ∈ s.agg.irq) ∧
    (∀ tag, Source.other tag ∈ t.agg.irq ↔ Source.other tag ∈ s.agg.irq) ∧
    t.agg.nmi = s.agg.nmi

/-- `SYS.RESET` (R308): the reset operation of every binding's peripheral in list order, then both source sets
emptied, then `cpu.reset()` and no other event; map, memory and oracle stay (decision D45). Every bound VIA is then
at its reset values and every bound ACIA has nothing in flight and nothing queued. -/
def Obligations.SystemResetResetsWhatIsBound : Prop :=
  ∀ s : State, (∀ b ∈ s.hub.bindings, periphExists s b.periph = true) →
    ∃ replies t, runAll (s.hub.bindings.map fun b => resetOp b.periph) s = some (replies, t) ∧
      t.rtr = s.rtr ∧ t.hub = s.hub ∧ t.env = s.env ∧
      (∀ b ∈ s.hub.bindings, ∀ i, b.periph = .via i → t.vias[i]? = some viaFresh) ∧
      (∀ b ∈ s.hub.bindings, ∀ i, b.periph = .acia i → ∃ a, t.acias[i]? = some a ∧
        a.control = 0x00#8 ∧ a.rxq = [] ∧ a.ovrn = false ∧ a.txActive = false ∧ a.rxActive = false) ∧
      exec .sysReset s = .next { t with
        agg := { irq := [], nmi := [] }, events := s.events ++ [.cpuReset], reply := .unit }

/-- `SYS.ATTACH` (R306, decision D4) is `HUB.REGISTER` and then `RTR.MAPIO`; on an error of the first, nothing has
changed. A range that meets no binding, under a new name, is attached in both halves. -/
def Obligations.AttachRegistersThenMaps : Prop :=
  ∀ (s : State) (name : String) (start stop : Nat) (p : PeriphRef), periphExists s p = true →
    (∀ e, exec (.hubRegister p start stop name) s = .next { s with reply := .error e } →
      exec (.sysAttach name start stop p) s = .next { s with reply := .error e }) ∧
    (∀ t, exec (.hubRegister p start stop name) s = .next t → t.reply = .unit →
      exec (.sysAttach name start stop p) s = exec (.rtrMapIo start stop p) t) ∧
    (start ≤ stop → (∀ b ∈ s.hub.bindings, b.name ≠ name ∧ ¬ rangesMeet b.start b.stop start stop) →
      ∃ t, exec (.sysAttach name start stop p) s = .next t ∧
        t = { s with hub := t.hub, rtr := { s.rtr with ios := t.rtr.ios }, reply := .unit } ∧
        { name := name, start := start, stop := stop, periph := p } ∈ t.hub.bindings ∧
        { start := start, stop := stop, periph := p } ∈ t.rtr.ios)

/-- `SYS.DETACH` (R307, decision D4): the binding of the name goes, and with it every IO region of its very range;
nothing happens for an absent name; nothing else changes, the peripheral's own state included. -/
def Obligations.DetachRemovesBindingAndRegion : Prop :=
  ∀ (s : State) (name : String),
    ((∀ b ∈ s.hub.bindings, b.name ≠ name) → exec (.sysDetach name) s = .next { s with reply := .unit }) ∧
    (hubWf s.hub → ∀ b ∈ s.hub.bindings, b.name = name →
      ∃ bindings ios, exec (.sysDetach name) s = .next { s with
          hub := { bindings := bindings }, rtr := { s.rtr with ios := ios }, reply := .unit } ∧
        (∀ x, x ∈ bindings ↔ x ∈ s.hub.bindings ∧ x.name ≠ name) ∧
        (∀ g, g ∈ ios ↔ g ∈ s.rtr.ios ∧ ¬ (g.start = b.start ∧ g.stop = b.stop)))
end

