-- ==== Sys2Proof/Laws/Memory.lean ====
section
/-! SUPPORT. The laws of memory: reading back what was written, the canonical form, and the range of a block. -/

namespace Sys2Proof.Machine

/-- A read after a write to the same address gives the byte written (R82, R142). -/
@[simp] theorem read_write_same (a : Nat) (b : Byte) :
    ∀ m : Memory, Memory.wf m → (Memory.write m a b).read a = b
  | [], _ => by
    by_cases h : b = Memory.unlisted <;> simp [Memory.write, Memory.read, h]
  | (k, c) :: rest, h => by
    have hp := List.pairwise_cons.mp h.1
    have hr : Memory.wf rest := ⟨hp.2, fun x hx => h.2 x (List.mem_cons_of_mem _ hx)⟩
    have unl : ∀ (l : Memory), (∀ x ∈ l, a < x.1) → l.read a = Memory.unlisted := by
      intro l
      induction l with
      | nil => intro _; rfl
      | cons x xs ih =>
        intro hl
        have h1 := hl x (by simp)
        have hne : x.1 ≠ a := by omega
        simp only [Memory.read, hne, if_false]
        exact ih fun y hy => hl y (List.mem_cons_of_mem _ hy)
    simp only [Memory.write]
    split
    · rename_i hlt
      split
      · rename_i hb
        rw [hb]
        exact unl _ fun x hx => by
          rcases List.mem_cons.mp hx with rfl | hx
          · exact hlt
          · have := hp.1 x hx; simp at this; omega
      · simp [Memory.read]
    · split
      · rename_i hlt heq
        subst heq
        split
        · rename_i hb
          rw [hb]
          exact unl _ fun x hx => hp.1 x hx
        · simp [Memory.read]
      · rename_i hlt hne
        have : k ≠ a := fun h => hne h.symm
        simp only [Memory.read, this, if_false]
        exact read_write_same a b rest hr

/-- A write leaves the byte of every other address alone. -/
theorem read_write_other {a x : Nat} (b : Byte) (hx : x ≠ a) :
    ∀ m : Memory, (Memory.write m a b).read x = m.read x
  | [] => by
    have hx' : a ≠ x := fun h => hx h.symm
    by_cases h : b = Memory.unlisted <;> simp [Memory.write, Memory.read, h, hx']
  | (k, c) :: rest => by
    have hx' : a ≠ x := fun h => hx h.symm
    simp only [Memory.write]
    split
    · split
      · rfl
      · simp [Memory.read, hx']
    · split
      · rename_i heq
        subst heq
        split <;> simp [Memory.read, hx']
      · simp only [Memory.read]
        split
        · rfl
        · exact read_write_other b hx rest

/-- An entry after a write is an old one or the one written. -/
theorem mem_write {a : Nat} {b : Byte} {c : Host.Cell} :
    ∀ {m : Memory}, c ∈ Memory.write m a b → c ∈ m ∨ (c = (a, b) ∧ b ≠ Memory.unlisted)
  | [], h => by
    by_cases hb : b = Memory.unlisted
    · simp [Memory.write, hb] at h
    · simp [Memory.write, hb] at h; exact .inr ⟨h, hb⟩
  | (k, d) :: rest, h => by
    simp only [Memory.write] at h
    split at h
    · split at h
      · exact .inl h
      · rename_i hb
        rcases List.mem_cons.mp h with h | h
        · exact .inr ⟨h, hb⟩
        · exact .inl h
    · split at h
      · split at h
        · exact .inl (List.mem_cons_of_mem _ h)
        · rename_i hb
          rcases List.mem_cons.mp h with h | h
          · exact .inr ⟨h, hb⟩
          · exact .inl (List.mem_cons_of_mem _ h)
      · rcases List.mem_cons.mp h with h | h
        · exact .inl (h ▸ List.mem_cons_self)
        · rcases mem_write h with h | h
          · exact .inl (List.mem_cons_of_mem _ h)
          · exact .inr h

/-- A write keeps the canonical form. -/
theorem write_wf (a : Nat) (b : Byte) : ∀ m : Memory, Memory.wf m → Memory.wf (Memory.write m a b)
  | [], _ => by
    by_cases h : b = Memory.unlisted
    · simp [Memory.write, h, Memory.wf]
    · simp [Memory.write, h, Memory.wf]
  | (k, c) :: rest, h => by
    have hp := List.pairwise_cons.mp h.1
    have hr : Memory.wf rest := ⟨hp.2, fun x hx => h.2 x (List.mem_cons_of_mem _ hx)⟩
    have ih := write_wf a b rest hr
    refine ⟨?_, fun x hx => ?_⟩
    · simp only [Memory.write]
      split
      · rename_i hlt
        split
        · exact h.1
        · refine List.pairwise_cons.mpr ⟨fun x hx => ?_, h.1⟩
          rcases List.mem_cons.mp hx with rfl | hx
          · exact hlt
          · have := hp.1 x hx
            simp at this ⊢
            omega
      · split
        · rename_i heq
          subst heq
          split
          · exact hp.2
          · exact List.pairwise_cons.mpr ⟨hp.1, hp.2⟩
        · refine List.pairwise_cons.mpr ⟨fun x hx => ?_, ih.1⟩
          rcases mem_write hx with hx | hx
          · exact hp.1 x hx
          · simp [hx.1]; omega
    · rcases mem_write hx with hx | hx
      · exact h.2 x hx
      · rw [hx.1]; exact hx.2

/-- The memory of a freshly installed or cleared block has the canonical form. -/
@[simp] theorem nil_wf : Memory.wf [] := by simp [Memory.wf]

/-- Every byte of a freshly installed or cleared block is zero. -/
@[simp] theorem nil_read (a : Nat) : Memory.read [] a = 0x00#8 := rfl

/-- The memory at construction has the canonical form: no RAM is installed (R53). -/
theorem reset_memory_wf : ∀ m ∈ State.reset.rtr.ram, Memory.wf m.bytes := by decide

end Sys2Proof.Machine
end

