-- ==== Sys2Proof/Laws/State.lean ====
section
/-! SUPPORT. One lemma per field of `State` per named update, so that no later proof unfolds a record update, and
the outcomes of `finish` and `raise`. -/

namespace Sys2Proof.Machine

@[simp] theorem setAcia_rtr (i : Nat) (a : Acia) (s : State) : (setAcia i a s).rtr = s.rtr := rfl
@[simp] theorem setAcia_hub (i : Nat) (a : Acia) (s : State) : (setAcia i a s).hub = s.hub := rfl
@[simp] theorem setAcia_acias (i : Nat) (a : Acia) (s : State) : (setAcia i a s).acias = s.acias.set i a := rfl
@[simp] theorem setAcia_vias (i : Nat) (a : Acia) (s : State) : (setAcia i a s).vias = s.vias := rfl
@[simp] theorem setAcia_agg (i : Nat) (a : Acia) (s : State) : (setAcia i a s).agg = s.agg := rfl
@[simp] theorem setAcia_params (i : Nat) (a : Acia) (s : State) : (setAcia i a s).params = s.params := rfl
@[simp] theorem setAcia_env (i : Nat) (a : Acia) (s : State) : (setAcia i a s).env = s.env := rfl
@[simp] theorem setAcia_requests (i : Nat) (a : Acia) (s : State) : (setAcia i a s).requests = s.requests := rfl
@[simp] theorem setAcia_reply (i : Nat) (a : Acia) (s : State) : (setAcia i a s).reply = s.reply := rfl
@[simp] theorem setAcia_events (i : Nat) (a : Acia) (s : State) : (setAcia i a s).events = s.events := rfl

@[simp] theorem setVia_rtr (i : Nat) (v : Via) (s : State) : (setVia i v s).rtr = s.rtr := rfl
@[simp] theorem setVia_hub (i : Nat) (v : Via) (s : State) : (setVia i v s).hub = s.hub := rfl
@[simp] theorem setVia_acias (i : Nat) (v : Via) (s : State) : (setVia i v s).acias = s.acias := rfl
@[simp] theorem setVia_vias (i : Nat) (v : Via) (s : State) : (setVia i v s).vias = s.vias.set i v := rfl
@[simp] theorem setVia_agg (i : Nat) (v : Via) (s : State) : (setVia i v s).agg = s.agg := rfl
@[simp] theorem setVia_params (i : Nat) (v : Via) (s : State) : (setVia i v s).params = s.params := rfl
@[simp] theorem setVia_env (i : Nat) (v : Via) (s : State) : (setVia i v s).env = s.env := rfl
@[simp] theorem setVia_requests (i : Nat) (v : Via) (s : State) : (setVia i v s).requests = s.requests := rfl
@[simp] theorem setVia_reply (i : Nat) (v : Via) (s : State) : (setVia i v s).reply = s.reply := rfl
@[simp] theorem setVia_events (i : Nat) (v : Via) (s : State) : (setVia i v s).events = s.events := rfl

@[simp] theorem emit_rtr (e : Event) (s : State) : (emit e s).rtr = s.rtr := rfl
@[simp] theorem emit_hub (e : Event) (s : State) : (emit e s).hub = s.hub := rfl
@[simp] theorem emit_acias (e : Event) (s : State) : (emit e s).acias = s.acias := rfl
@[simp] theorem emit_vias (e : Event) (s : State) : (emit e s).vias = s.vias := rfl
@[simp] theorem emit_agg (e : Event) (s : State) : (emit e s).agg = s.agg := rfl
@[simp] theorem emit_params (e : Event) (s : State) : (emit e s).params = s.params := rfl
@[simp] theorem emit_env (e : Event) (s : State) : (emit e s).env = s.env := rfl
@[simp] theorem emit_requests (e : Event) (s : State) : (emit e s).requests = s.requests := rfl
@[simp] theorem emit_reply (e : Event) (s : State) : (emit e s).reply = s.reply := rfl
@[simp] theorem emit_events (e : Event) (s : State) : (emit e s).events = s.events ++ [e] := rfl

@[simp] theorem presentFirst_rtr (r : Request) (s : State) : (presentFirst r s).rtr = s.rtr := rfl
@[simp] theorem presentFirst_hub (r : Request) (s : State) : (presentFirst r s).hub = s.hub := rfl
@[simp] theorem presentFirst_acias (r : Request) (s : State) : (presentFirst r s).acias = s.acias := rfl
@[simp] theorem presentFirst_vias (r : Request) (s : State) : (presentFirst r s).vias = s.vias := rfl
@[simp] theorem presentFirst_agg (r : Request) (s : State) : (presentFirst r s).agg = s.agg := rfl
@[simp] theorem presentFirst_params (r : Request) (s : State) : (presentFirst r s).params = s.params := rfl
@[simp] theorem presentFirst_env (r : Request) (s : State) : (presentFirst r s).env = s.env := rfl
@[simp] theorem presentFirst_requests (r : Request) (s : State) : (presentFirst r s).requests = r :: s.requests := rfl
@[simp] theorem presentFirst_reply (r : Request) (s : State) : (presentFirst r s).reply = s.reply := rfl
@[simp] theorem presentFirst_events (r : Request) (s : State) : (presentFirst r s).events = s.events := rfl

@[simp] theorem dropNmi_rtr (src : Source) (s : State) : (dropNmi src s).rtr = s.rtr := rfl
@[simp] theorem dropNmi_hub (src : Source) (s : State) : (dropNmi src s).hub = s.hub := rfl
@[simp] theorem dropNmi_acias (src : Source) (s : State) : (dropNmi src s).acias = s.acias := rfl
@[simp] theorem dropNmi_vias (src : Source) (s : State) : (dropNmi src s).vias = s.vias := rfl
@[simp] theorem dropNmi_agg (src : Source) (s : State) : (dropNmi src s).agg = { s.agg with nmi := s.agg.nmi.filter (fun x => x != src) } := rfl
@[simp] theorem dropNmi_params (src : Source) (s : State) : (dropNmi src s).params = s.params := rfl
@[simp] theorem dropNmi_env (src : Source) (s : State) : (dropNmi src s).env = s.env := rfl
@[simp] theorem dropNmi_requests (src : Source) (s : State) : (dropNmi src s).requests = s.requests := rfl
@[simp] theorem dropNmi_reply (src : Source) (s : State) : (dropNmi src s).reply = s.reply := rfl
@[simp] theorem dropNmi_events (src : Source) (s : State) : (dropNmi src s).events = s.events := rfl

@[simp] theorem aggResetAll_rtr (s : State) : (aggResetAll s).rtr = s.rtr := rfl
@[simp] theorem aggResetAll_hub (s : State) : (aggResetAll s).hub = s.hub := rfl
@[simp] theorem aggResetAll_acias (s : State) : (aggResetAll s).acias = s.acias := rfl
@[simp] theorem aggResetAll_vias (s : State) : (aggResetAll s).vias = s.vias := rfl
@[simp] theorem aggResetAll_agg (s : State) : (aggResetAll s).agg = { irq := [], nmi := [] } := rfl
@[simp] theorem aggResetAll_params (s : State) : (aggResetAll s).params = s.params := rfl
@[simp] theorem aggResetAll_env (s : State) : (aggResetAll s).env = s.env := rfl
@[simp] theorem aggResetAll_requests (s : State) : (aggResetAll s).requests = s.requests := rfl
@[simp] theorem aggResetAll_reply (s : State) : (aggResetAll s).reply = s.reply := rfl
@[simp] theorem aggResetAll_events (s : State) : (aggResetAll s).events = s.events := rfl

@[simp] theorem finish_eq (s : State) (r : Reply) : finish s r = .next { s with reply := r } := rfl

@[simp] theorem raise_eq (s : State) (e : OpError) : raise s e = .next { s with reply := .error e } := rfl

/-! What the two edge operations change: the IRQ or NMI set, and the events. -/

@[simp] theorem raiseIrq_rtr (src : Source) (s : State) : (raiseIrq src s).rtr = s.rtr := by
  simp only [raiseIrq]; split <;> rfl
@[simp] theorem raiseIrq_hub (src : Source) (s : State) : (raiseIrq src s).hub = s.hub := by
  simp only [raiseIrq]; split <;> rfl
@[simp] theorem raiseIrq_acias (src : Source) (s : State) : (raiseIrq src s).acias = s.acias := by
  simp only [raiseIrq]; split <;> rfl
@[simp] theorem raiseIrq_vias (src : Source) (s : State) : (raiseIrq src s).vias = s.vias := by
  simp only [raiseIrq]; split <;> rfl
@[simp] theorem raiseIrq_params (src : Source) (s : State) : (raiseIrq src s).params = s.params := by
  simp only [raiseIrq]; split <;> rfl
@[simp] theorem raiseIrq_env (src : Source) (s : State) : (raiseIrq src s).env = s.env := by
  simp only [raiseIrq]; split <;> rfl
@[simp] theorem raiseIrq_requests (src : Source) (s : State) : (raiseIrq src s).requests = s.requests := by
  simp only [raiseIrq]; split <;> rfl
@[simp] theorem raiseIrq_reply (src : Source) (s : State) : (raiseIrq src s).reply = s.reply := by
  simp only [raiseIrq]; split <;> rfl
@[simp] theorem raiseIrq_agg (src : Source) (s : State) :
    (raiseIrq src s).agg = { s.agg with irq := s.agg.irq.insert src } := by
  simp only [raiseIrq]; split <;> rfl

@[simp] theorem raiseNmi_rtr (src : Source) (s : State) : (raiseNmi src s).rtr = s.rtr := by
  simp only [raiseNmi]; split <;> rfl
@[simp] theorem raiseNmi_hub (src : Source) (s : State) : (raiseNmi src s).hub = s.hub := by
  simp only [raiseNmi]; split <;> rfl
@[simp] theorem raiseNmi_acias (src : Source) (s : State) : (raiseNmi src s).acias = s.acias := by
  simp only [raiseNmi]; split <;> rfl
@[simp] theorem raiseNmi_vias (src : Source) (s : State) : (raiseNmi src s).vias = s.vias := by
  simp only [raiseNmi]; split <;> rfl
@[simp] theorem raiseNmi_params (src : Source) (s : State) : (raiseNmi src s).params = s.params := by
  simp only [raiseNmi]; split <;> rfl
@[simp] theorem raiseNmi_env (src : Source) (s : State) : (raiseNmi src s).env = s.env := by
  simp only [raiseNmi]; split <;> rfl
@[simp] theorem raiseNmi_requests (src : Source) (s : State) : (raiseNmi src s).requests = s.requests := by
  simp only [raiseNmi]; split <;> rfl
@[simp] theorem raiseNmi_reply (src : Source) (s : State) : (raiseNmi src s).reply = s.reply := by
  simp only [raiseNmi]; split <;> rfl
@[simp] theorem raiseNmi_agg (src : Source) (s : State) :
    (raiseNmi src s).agg = { s.agg with nmi := s.agg.nmi.insert src } := by
  simp only [raiseNmi]; split <;> rfl

@[simp] theorem dropIrq_rtr (src : Source) (s : State) : (dropIrq src s).rtr = s.rtr := by
  simp only [dropIrq]; split <;> rfl
@[simp] theorem dropIrq_hub (src : Source) (s : State) : (dropIrq src s).hub = s.hub := by
  simp only [dropIrq]; split <;> rfl
@[simp] theorem dropIrq_acias (src : Source) (s : State) : (dropIrq src s).acias = s.acias := by
  simp only [dropIrq]; split <;> rfl
@[simp] theorem dropIrq_vias (src : Source) (s : State) : (dropIrq src s).vias = s.vias := by
  simp only [dropIrq]; split <;> rfl
@[simp] theorem dropIrq_params (src : Source) (s : State) : (dropIrq src s).params = s.params := by
  simp only [dropIrq]; split <;> rfl
@[simp] theorem dropIrq_env (src : Source) (s : State) : (dropIrq src s).env = s.env := by
  simp only [dropIrq]; split <;> rfl
@[simp] theorem dropIrq_requests (src : Source) (s : State) : (dropIrq src s).requests = s.requests := by
  simp only [dropIrq]; split <;> rfl
@[simp] theorem dropIrq_reply (src : Source) (s : State) : (dropIrq src s).reply = s.reply := by
  simp only [dropIrq]; split <;> rfl
@[simp] theorem dropIrq_agg (src : Source) (s : State) :
    (dropIrq src s).agg = { s.agg with irq := s.agg.irq.filter (fun x => x != src) } := by
  simp only [dropIrq]; split <;> rfl

/-- `cpu.triggerIRQ()` is emitted exactly on the empty to non-empty transition (R280). -/
theorem raiseIrq_events (src : Source) (s : State) :
    (raiseIrq src s).events = if s.agg.irq = [] then s.events ++ [.cpuTriggerIrq] else s.events := by
  by_cases h : s.agg.irq = [] <;> simp [raiseIrq, emit, h]

/-- `cpu.triggerNMI()` is emitted exactly on the empty to non-empty transition (R281). -/
theorem raiseNmi_events (src : Source) (s : State) :
    (raiseNmi src s).events = if s.agg.nmi = [] then s.events ++ [.cpuTriggerNmi] else s.events := by
  by_cases h : s.agg.nmi = [] <;> simp [raiseNmi, emit, h]

/-- `cpu.clearIRQ()` is emitted exactly on the non-empty to empty transition (R282). -/
theorem dropIrq_events (src : Source) (s : State) :
    (dropIrq src s).events =
      if s.agg.irq ≠ [] ∧ s.agg.irq.filter (fun x => x != src) = [] then s.events ++ [.cpuClearIrq]
      else s.events := by
  by_cases h : s.agg.irq = []
  · simp [dropIrq, h]
  · by_cases h2 : s.agg.irq.filter (fun x => x != src) = []
    · simp [dropIrq, emit, h, h2]
    · simp [dropIrq, h, h2]

end Sys2Proof.Machine
end

