-- ==== Sys2Proof/Laws/Ops.lean ====
section
/-! SUPPORT. One lemma per shared operation that says once what it can do. Proofs cite these and do not unfold the
operations. -/

namespace Sys2Proof.Machine

/-! ## Countdowns and byte halves -/

/-- A countdown expires exactly when the cycles reach it, and else leaves the difference (R121 c). -/
theorem countdown_eq (n c : Nat) : countdown n c = if n ≤ c then none else some (n - c) := by
  simp only [countdown]
  by_cases h : n ≤ c
  · rw [if_pos (by omega), if_pos h]
  · rw [if_neg (by omega), if_neg h]
    congr 1
    omega

@[simp] theorem lowByte_toNat (n : Half) : (lowByte n).toNat = n.toNat % 256 := by
  simp [lowByte]

@[simp] theorem highByte_toNat (n : Half) : (highByte n).toNat = n.toNat / 256 := by
  have := n.isLt
  simp only [highByte, BitVec.extractLsb'_toNat, Nat.shiftRight_eq_div_pow]
  omega

@[simp] theorem withLowByte_toNat (n : Half) (d : Byte) :
    (withLowByte n d).toNat = n.toNat / 256 * 256 + d.toNat := by
  have := d.isLt
  rw [withLowByte, BitVec.toNat_append, ← Nat.shiftLeft_add_eq_or_of_lt this, highByte_toNat, Nat.shiftLeft_eq]

@[simp] theorem withHighByte_toNat (n : Half) (d : Byte) :
    (withHighByte n d).toNat = d.toNat * 256 + n.toNat % 256 := by
  have h : (lowByte n).toNat < 2 ^ 8 := (lowByte n).isLt
  rw [withHighByte, BitVec.toNat_append, ← Nat.shiftLeft_add_eq_or_of_lt h, lowByte_toNat, Nat.shiftLeft_eq]

/-! ## Flags, bit by bit -/

theorem flagMask_bit (k j : Nat) : (flagMask k).getLsbD j = (decide (j < 7) && decide (k = j)) := by
  simp only [flagMask, BitVec.getLsbD_twoPow]
  by_cases h : k = j
  · subst h; simp
  · simp [h]

theorem setFlag_bit (f : BitVec 7) (k j : Nat) :
    (setFlag f k).getLsbD j = (f.getLsbD j || (decide (j < 7) && decide (k = j))) := by
  simp only [setFlag, BitVec.getLsbD_or, flagMask_bit]

theorem clearFlag_bit (f : BitVec 7) (k : Nat) {j : Nat} (h : j < 7) :
    (clearFlag f k).getLsbD j = (f.getLsbD j && !decide (k = j)) := by
  simp only [clearFlag, BitVec.getLsbD_and, BitVec.getLsbD_not, flagMask_bit, h, decide_true, Bool.true_and]

theorem low7_bit (d : Byte) {j : Nat} (h : j < 7) : (low7 d).getLsbD j = d.getLsbD j := by
  simp only [low7, BitVec.getLsbD_extractLsb', h, decide_true, Bool.true_and, Nat.zero_add]

/-- Write-one-to-clear, bit by bit (R108, R238). -/
theorem ifrWriteValue_bit (f : BitVec 7) (d : Byte) {j : Nat} (h : j < 7) :
    (ifrWriteValue f d).getLsbD j = (f.getLsbD j && !d.getLsbD j) := by
  simp only [ifrWriteValue, BitVec.getLsbD_and, BitVec.getLsbD_not, low7_bit d h, h, decide_true, Bool.true_and]

/-- Set mode and clear mode, bit by bit (R107, R240). -/
theorem ierWriteValue_bit (f : BitVec 7) (d : Byte) {j : Nat} (h : j < 7) :
    (ierWriteValue f d).getLsbD j =
      if d.getLsbD 7 then f.getLsbD j || d.getLsbD j else f.getLsbD j && !d.getLsbD j := by
  simp only [ierWriteValue]
  split <;> simp only [BitVec.getLsbD_and, BitVec.getLsbD_or, BitVec.getLsbD_not, low7_bit d h, h, decide_true,
    Bool.true_and]

/-- The merge under the direction mask, bit by bit (R109). -/
theorem portMerge_bit (old m d : Byte) {j : Nat} (h : j < 8) :
    (portMerge old m d).getLsbD j = if m.getLsbD j then d.getLsbD j else old.getLsbD j := by
  simp only [portMerge, BitVec.getLsbD_and, BitVec.getLsbD_or, BitVec.getLsbD_not, h, decide_true, Bool.true_and]
  cases m.getLsbD j <;> simp

/-! ## Operations on an instance -/

theorem onAcia_next {i : Nat} {s t : State} {f : Acia → Host.Outcome State Fault Refusal}
    (h : onAcia i s f = .next t) : ∃ a, s.acias[i]? = some a ∧ f a = .next t := by
  simp only [onAcia] at h
  split at h
  · exact ⟨_, ‹_›, h⟩
  · cases h

theorem onVia_next {i : Nat} {s t : State} {f : Via → Host.Outcome State Fault Refusal}
    (h : onVia i s f = .next t) : ∃ v, s.vias[i]? = some v ∧ f v = .next t := by
  simp only [onVia] at h
  split at h
  · exact ⟨_, ‹_›, h⟩
  · cases h

theorem onPeriph_next {p : PeriphRef} {s t : State} {f : Host.Outcome State Fault Refusal}
    (h : onPeriph p s f = .next t) : periphExists s p = true ∧ f = .next t := by
  simp only [onPeriph] at h
  split at h
  · exact ⟨‹_›, h⟩
  · cases h

theorem viaReadOp_next {i : Nat} {s t : State} {f : Via → Byte × Via}
    (h : viaReadOp i s f = .next t) :
    ∃ v, s.vias[i]? = some v ∧ t = { setVia i (f v).2 s with reply := .byte (f v).1 } := by
  obtain ⟨v, hv, h⟩ := onVia_next h
  exact ⟨v, hv, by simpa using h.symm⟩

theorem viaWriteOp_next {i : Nat} {s t : State} {f : Via → Via}
    (h : viaWriteOp i s f = .next t) :
    ∃ v, s.vias[i]? = some v ∧ t = { setVia i (f v) s with reply := .unit } := by
  obtain ⟨v, hv, h⟩ := onVia_next h
  exact ⟨v, hv, by simpa using h.symm⟩

theorem onAcia_eq {i : Nat} {s : State} {a : Acia} (h : s.acias[i]? = some a)
    (f : Acia → Host.Outcome State Fault Refusal) : onAcia i s f = f a := by
  simp only [onAcia, h]

theorem onVia_eq {i : Nat} {s : State} {v : Via} (h : s.vias[i]? = some v)
    (f : Via → Host.Outcome State Fault Refusal) : onVia i s f = f v := by
  simp only [onVia, h]

theorem onPeriph_eq {p : PeriphRef} {s : State} (h : periphExists s p = true)
    (f : Host.Outcome State Fault Refusal) : onPeriph p s f = f := by
  simp only [onPeriph, h, if_true]

theorem viaReadOp_eq {i : Nat} {s : State} {v : Via} (h : s.vias[i]? = some v) (f : Via → Byte × Via) :
    viaReadOp i s f = .next { setVia i (f v).2 s with reply := .byte (f v).1 } := by
  simp only [viaReadOp, onVia_eq h, finish_eq]

theorem viaWriteOp_eq {i : Nat} {s : State} {v : Via} (h : s.vias[i]? = some v) (f : Via → Via) :
    viaWriteOp i s f = .next { setVia i (f v) s with reply := .unit } := by
  simp only [viaWriteOp, onVia_eq h, finish_eq]

/-- Putting back the record that is there changes nothing. -/
theorem setVia_self {i : Nat} {s : State} {v : Via} (h : s.vias[i]? = some v) : setVia i v s = s := by
  obtain ⟨hi, hv⟩ := List.getElem?_eq_some_iff.mp h
  subst hv
  simp [setVia]

theorem setAcia_self {i : Nat} {s : State} {a : Acia} (h : s.acias[i]? = some a) : setAcia i a s = s := by
  obtain ⟨hi, ha⟩ := List.getElem?_eq_some_iff.mp h
  subst ha
  simp [setAcia]

/-! ## The capability contract, by chip -/

theorem pRead_acia {i : Nat} {s : State} {a : Acia} (h : s.acias[i]? = some a) (off : Nat) :
    pRead (.acia i) off s = ((aciaRead s.params off a s.env).1,
      { setAcia i (aciaRead s.params off a s.env).2.1 s with env := (aciaRead s.params off a s.env).2.2 }) := by
  simp only [pRead, h]

theorem pRead_via {i : Nat} {s : State} {v : Via} (h : s.vias[i]? = some v) (off : Nat) :
    pRead (.via i) off s = ((viaRead s.params off v).1, setVia i (viaRead s.params off v).2 s) := by
  simp only [pRead, h]

theorem pWrite_acia {i : Nat} {s : State} {a : Acia} (h : s.acias[i]? = some a) (off : Nat) (d : Byte) :
    pWrite (.acia i) off d s = setAcia i (aciaWrite off d a) s := by
  simp only [pWrite, h]

theorem pWrite_via {i : Nat} {s : State} {v : Via} (h : s.vias[i]? = some v) (off : Nat) (d : Byte) :
    pWrite (.via i) off d s = setVia i (viaWrite off d v) s := by
  simp only [pWrite, h]

theorem pReset_acia {i : Nat} {s : State} {a : Acia} (h : s.acias[i]? = some a) :
    pReset (.acia i) s = setAcia i (aciaResetState a) s := by
  simp only [pReset, h]

theorem pReset_via {i : Nat} {s : State} {v : Via} (h : s.vias[i]? = some v) :
    pReset (.via i) s = setVia i viaFresh s := by
  simp only [pReset, h, viaResetState]

theorem pTick_acia {i : Nat} {s : State} {a : Acia} (h : s.acias[i]? = some a) (c : Nat) :
    pTick (.acia i) c s = aciaTickAt i c a s := by
  simp only [pTick, h]

theorem pTick_via {i : Nat} {s : State} {v : Via} (h : s.vias[i]? = some v) (c : Nat) :
    pTick (.via i) c s = setVia i (viaTickStep c v) s := by
  simp only [pTick, h]

theorem pIrq_acia {i : Nat} {s : State} {a : Acia} (h : s.acias[i]? = some a) :
    pIrq (.acia i) s = aciaIrqCond s.params a := by
  simp only [pIrq, h]

theorem pIrq_via {i : Nat} {s : State} {v : Via} (h : s.vias[i]? = some v) : pIrq (.via i) s = viaAny v := by
  simp only [pIrq, h]

/-- A reference that names no instance does nothing (log entry 4). -/
theorem periph_absent {p : PeriphRef} {s : State} (h : periphExists s p = false) (off c : Nat) (d : Byte) :
    pRead p off s = (openBus, s) ∧ pWrite p off d s = s ∧ pReset p s = s ∧ pTick p c s = s ∧ pIrq p s = false := by
  cases p with
  | acia i =>
    have : s.acias[i]? = none := by simpa [periphExists] using h
    simp [pRead, pWrite, pReset, pTick, pIrq, this]
  | via i =>
    have : s.vias[i]? = none := by simpa [periphExists] using h
    simp [pRead, pWrite, pReset, pTick, pIrq, this]

/-- A reference names an instance, or nothing. -/
theorem periph_cases (p : PeriphRef) (s : State) :
    (∃ i a, p = .acia i ∧ s.acias[i]? = some a) ∨ (∃ i v, p = .via i ∧ s.vias[i]? = some v) ∨
      periphExists s p = false := by
  cases p with
  | acia i =>
    cases h : s.acias[i]? with
    | some a => exact .inl ⟨i, a, rfl, h⟩
    | none => exact .inr (.inr (by simpa [periphExists] using h))
  | via i =>
    cases h : s.vias[i]? with
    | some v => exact .inr (.inl ⟨i, v, rfl, h⟩)
    | none => exact .inr (.inr (by simpa [periphExists] using h))

/-! ## Insertion in order of a key -/

@[simp] theorem mem_insertByKey {α : Type} (key : α → Nat) (x z : α) (l : List α) :
    z ∈ insertByKey key x l ↔ z = x ∨ z ∈ l := by
  induction l with
  | nil => simp [insertByKey]
  | cons y ys ih =>
    simp only [insertByKey]
    split
    · simp
    · simp [ih]; tauto

theorem insertByKey_perm {α : Type} (key : α → Nat) (x : α) (l : List α) :
    (insertByKey key x l).Perm (x :: l) := by
  induction l with
  | nil => simp [insertByKey]
  | cons y ys ih =>
    simp only [insertByKey]
    split
    · exact .refl _
    · exact (ih.cons y).trans (.swap x y ys)

/-- Inserting keeps a list whose elements stand pairwise in a transitive relation, if the new element stands in it
to every element in the direction that the keys say. -/
theorem insertByKey_pairwise {α : Type} {key : α → Nat} {R : α → α → Prop} {x : α}
    (hR : ∀ {u v w : α}, R u v → R v w → R u w) {l : List α} (h : l.Pairwise R)
    (hx : ∀ y ∈ l, (key x < key y → R x y) ∧ (key y ≤ key x → R y x)) :
    (insertByKey key x l).Pairwise R := by
  induction l with
  | nil => simp [insertByKey]
  | cons y ys ih =>
    have hp := List.pairwise_cons.mp h
    simp only [insertByKey]
    split
    · rename_i hlt
      refine List.pairwise_cons.mpr ⟨fun z hz => ?_, h⟩
      have hxy := (hx y (by simp)).1 hlt
      rcases List.mem_cons.mp hz with rfl | hz
      · exact hxy
      · exact hR hxy (hp.1 z hz)
    · rename_i hle
      refine List.pairwise_cons.mpr ⟨fun z hz => ?_, ih hp.2 fun z hz => hx z (List.mem_cons_of_mem _ hz)⟩
      rcases (mem_insertByKey key x z ys).mp hz with rfl | hz
      · exact (hx y (by simp)).2 (by omega)
      · exact hp.1 z hz

/-! ## The aggregator's sets -/

theorem mem_raiseIrq (src x : Source) (s : State) : x ∈ (raiseIrq src s).agg.irq ↔ x = src ∨ x ∈ s.agg.irq := by
  simp [List.mem_insert_iff]

theorem mem_dropIrq (src x : Source) (s : State) : x ∈ (dropIrq src s).agg.irq ↔ x ∈ s.agg.irq ∧ x ≠ src := by
  simp

theorem mem_insertName (n m : String) (l : List String) : m ∈ insertName n l ↔ m = n ∨ m ∈ l := by
  induction l with
  | nil => simp [insertName]
  | cons y ys ih =>
    simp only [insertName]
    split
    · simp
    · simp [ih]; tauto

/-- The stale names are those of the peripheral sources in the set that are not reporting (R284). -/
theorem mem_staleNames (g : Agg) (act : List String) (n : String) :
    n ∈ staleNames g act ↔ Source.peripheral n ∈ g.irq ∧ n ∉ act := by
  simp only [staleNames]
  induction g.irq with
  | nil => simp [staleIn]
  | cons x xs ih =>
    cases x with
    | peripheral m =>
      by_cases hm : m ∈ act
      · have hne : n ∉ act → n ≠ m := fun h e => h (e ▸ hm)
        simp only [staleIn, List.contains_iff_mem, hm, if_true, ih, List.mem_cons, Source.peripheral.injEq]
        tauto
      · have hin : n = m → n ∉ act := fun e => e ▸ hm
        simp only [staleIn, List.contains_iff_mem, hm, if_false, mem_insertName, ih, List.mem_cons,
          Source.peripheral.injEq]
        tauto
    | debug => simp [staleIn, ih]
    | other t => simp [staleIn, ih]

end Sys2Proof.Machine
end

