-- ==== Sys2Proof/Laws/Devices.lean ====
section
/-! SUPPORT. Every operation on one ACIA or one VIA keeps the instance's invariants (R185, R251) and its
construction parameters (R38, R39). -/

namespace Sys2Proof.Machine

/-! ## The ACIA -/

/-- A bit time is at least one cycle for every `BAUD` in range (R38). -/
theorem one_le_cyclesPerBitOf {baud : Nat} (sel : BitVec 2) (h1 : 1 ≤ baud) (h2 : baud ≤ 1000000) :
    1 ≤ cyclesPerBitOf baud sel := by
  have hr : 1 ≤ divideRatio sel := by
    simp only [divideRatio]; split
    · omega
    · split <;> omega
  rw [cyclesPerBitOf, Nat.le_div_iff_mul_le (by omega)]
  have : busHz * 1 ≤ busHz * divideRatio sel := Nat.mul_le_mul_left _ hr
  simp only [busHz] at *
  omega

/-- A character time is at least one cycle (R180). -/
theorem one_le_charCycles {p : Config.Params} {a : Acia} (h : aciaWf p a) : 1 ≤ charCyclesOf a.cyclesPerBit := by
  have := one_le_cyclesPerBitOf (divideSelect a.control) h.1.1 h.1.2
  rw [← h.2.2.2.2.2.1] at this
  simp only [charCyclesOf, bitsPerChar]
  omega

theorem aciaResetState_wf {p : Config.Params} {a : Acia} (h : aciaWf p a) : aciaWf p (aciaResetState a) := by
  refine ⟨h.1, by simp [aciaResetState], by simp [aciaResetState], by simp [aciaResetState], ?_, ?_, ?_⟩
  · simp [aciaResetState]
  · simp only [aciaResetState]; congr 1
  · simp only [aciaResetState]; decide

theorem aciaControlWrite_wf {p : Config.Params} {a : Acia} (v : Byte) (h : aciaWf p a) :
    aciaWf p (aciaControlWrite a v) := by
  simp only [aciaControlWrite]
  split
  · exact aciaResetState_wf h
  · rename_i hm
    refine ⟨h.1, h.2.1, h.2.2.1, h.2.2.2.1, h.2.2.2.2.1, rfl, ?_⟩
    simpa [isMasterReset] using hm

theorem aciaDataRead_wf {p : Config.Params} {a : Acia} (h : aciaWf p a) : aciaWf p (aciaDataRead a).2 := by
  simp only [aciaDataRead]
  split
  · rename_i b rest hq
    have := h.2.1
    rw [hq] at this
    exact ⟨h.1, by simp at this ⊢; omega, h.2.2⟩
  · exact h

theorem aciaDataWrite_wf {p : Config.Params} {a : Acia} (v : Byte) (h : aciaWf p a) :
    aciaWf p (aciaDataWrite a v) := by
  simp only [aciaDataWrite]
  split
  · exact h
  · exact ⟨h.1, h.2.1, ⟨fun _ => one_le_charCycles h, by simp⟩, h.2.2.2⟩

theorem aciaTxAdvance_wf {p : Config.Params} {a : Acia} (c : Nat) (h : aciaWf p a) :
    aciaWf p (aciaTxAdvance c a).1 := by
  simp only [aciaTxAdvance, countdown_eq]
  by_cases ht : a.txActive = true
  · simp only [ht, if_true]
    by_cases hc : a.txCount ≤ c
    · simp only [hc, if_true]
      exact ⟨h.1, h.2.1, ⟨by simp, by simp⟩, h.2.2.2⟩
    · simp only [hc, if_false]
      exact ⟨h.1, h.2.1, ⟨fun _ => by simp; omega, by simp⟩, h.2.2.2⟩
  · simp only [ht]
    exact h

theorem aciaRxAdvance_wf {p : Config.Params} {a : Acia} (c : Nat) (h : aciaWf p a) :
    aciaWf p (aciaRxAdvance p c a) := by
  simp only [aciaRxAdvance, countdown_eq]
  by_cases ht : a.rxActive = true
  · simp only [ht, if_true]
    by_cases hc : a.rxCount ≤ c
    · simp only [hc, if_true]
      refine ⟨h.1, ?_, h.2.2.1, ⟨by simp, by simp⟩, h.2.2.2.2⟩
      have := h.2.1
      by_cases hq : a.rxq.length < p.rxqCap
      · simp only [hq, if_true, List.length_append, List.length_singleton]; omega
      · simpa [hq] using this
    · simp only [hc, if_false]
      exact ⟨h.1, h.2.1, h.2.2.1, ⟨fun _ => by simp; omega, by simp⟩, h.2.2.2.2⟩
  · simp only [ht]
    exact h

/-- All that `RxPoll` can do to the ACIA (R177): nothing, or start a reception with the byte taken. -/
theorem aciaRxPoll_cases (a : Acia) (e : Env) :
    (aciaRxPoll a e).1 = a ∨
    a.rxActive = false ∧ (∃ k, a.port = some k) ∧ ∃ b, (aciaRxPoll a e).1 =
      { a with rxShift := b, rxActive := true, rxCount := charCyclesOf a.cyclesPerBit } := by
  simp only [aciaRxPoll]
  by_cases ht : a.rxActive = true
  · simp [ht]
  · simp only [ht]
    cases hp : a.port with
    | none => simp
    | some k =>
      by_cases hh : (askHasData k e).1 = true
      · cases hr : (askRead k (askHasData k e).2).1 with
        | none => simp [hh, hr]
        | some b => exact .inr ⟨by simp, ⟨k, rfl⟩, b, by simp [hh, hr]⟩
      · simp [hh]

theorem aciaRxPoll_wf {p : Config.Params} {a : Acia} (e : Env) (h : aciaWf p a) :
    aciaWf p (aciaRxPoll a e).1 := by
  rcases aciaRxPoll_cases a e with heq | ⟨_, _, b, heq⟩
  · rw [heq]; exact h
  · rw [heq]
    exact ⟨h.1, h.2.1, h.2.2.1, ⟨fun _ => one_le_charCycles h, by simp⟩, h.2.2.2.2⟩

/-- `BAUD` and the bound port are given at construction and no operation changes them (R30, R39). -/
abbrev sameConstruction (a b : Acia) : Prop := b.baud = a.baud ∧ b.port = a.port

theorem aciaControlWrite_construction (a : Acia) (v : Byte) : sameConstruction a (aciaControlWrite a v) := by
  simp only [aciaControlWrite]; split <;> exact ⟨rfl, rfl⟩

theorem aciaDataRead_construction (a : Acia) : sameConstruction a (aciaDataRead a).2 := by
  simp only [aciaDataRead]; split <;> exact ⟨rfl, rfl⟩

theorem aciaDataWrite_construction (a : Acia) (v : Byte) : sameConstruction a (aciaDataWrite a v) := by
  simp only [aciaDataWrite]; split <;> exact ⟨rfl, rfl⟩

theorem aciaTxAdvance_construction (c : Nat) (a : Acia) : sameConstruction a (aciaTxAdvance c a).1 := by
  simp only [aciaTxAdvance]; split
  · split <;> exact ⟨rfl, rfl⟩
  · exact ⟨rfl, rfl⟩

theorem aciaRxAdvance_construction (p : Config.Params) (c : Nat) (a : Acia) :
    sameConstruction a (aciaRxAdvance p c a) := by
  simp only [aciaRxAdvance]; split
  · split <;> exact ⟨rfl, rfl⟩
  · exact ⟨rfl, rfl⟩

theorem aciaRxPoll_construction (a : Acia) (e : Env) : sameConstruction a (aciaRxPoll a e).1 := by
  rcases aciaRxPoll_cases a e with heq | ⟨_, _, b, heq⟩ <;> rw [heq]
  · exact ⟨rfl, rfl⟩
  · exact ⟨rfl, rfl⟩

/-! ## The VIA -/

theorem viaFresh_wf : viaWf viaFresh := by decide

/-- Setting a timer flag keeps the five unused flags at 0 (R46). -/
theorem setFlag_low {f : BitVec 7} {k : Nat} (hk : 5 ≤ k) (h : ∀ j < 5, f.getLsbD j = false) :
    ∀ j < 5, (setFlag f k).getLsbD j = false := by
  intro j hj
  rw [setFlag_bit, h j hj]
  have : k ≠ j := by omega
  simp [this]

/-- Clearing a flag keeps the five unused flags at 0 (R46). -/
theorem clearFlag_low {f : BitVec 7} (k : Nat) (h : ∀ j < 5, f.getLsbD j = false) :
    ∀ j < 5, (clearFlag f k).getLsbD j = false := by
  intro j hj
  rw [clearFlag_bit f k (by omega), h j hj, Bool.false_and]

theorem ifrWriteValue_low {f : BitVec 7} (d : Byte) (h : ∀ j < 5, f.getLsbD j = false) :
    ∀ j < 5, (ifrWriteValue f d).getLsbD j = false := by
  intro j hj
  rw [ifrWriteValue_bit f d (by omega), h j hj, Bool.false_and]

theorem viaT1Advance_wf {v : Via} (c : Nat) (h : viaWf v) : viaWf (viaT1Advance c v) := by
  simp only [viaT1Advance]
  split
  · split
    · split <;> exact setFlag_low (by decide) h
    · exact h
  · exact h

theorem viaT2Advance_wf {v : Via} (c : Nat) (h : viaWf v) : viaWf (viaT2Advance c v) := by
  simp only [viaT2Advance]
  split
  · split
    · exact setFlag_low (by decide) h
    · exact h
  · exact h

theorem viaTickStep_wf {v : Via} (c : Nat) (h : viaWf v) : viaWf (viaTickStep c v) :=
  viaT2Advance_wf c (viaT1Advance_wf c h)

theorem restartT1_wf {v : Via} (h : viaWf v) : viaWf (restartT1 v) := clearFlag_low t1Bit h

/-- Every register read of a VIA keeps its invariant. -/
theorem viaRead_wf (p : Config.Params) (off : Nat) {v : Via} (h : viaWf v) : viaWf (viaRead p off v).2 := by
  unfold viaRead
  split
  case h_5 => exact clearFlag_low t1Bit h
  case h_9 => exact clearFlag_low t2Bit h
  all_goals exact h

/-- Every register write of a VIA keeps its invariant. -/
theorem viaWrite_wf (off : Nat) (d : Byte) {v : Via} (h : viaWf v) : viaWf (viaWrite off d v) := by
  unfold viaWrite
  split
  case h_6 => exact restartT1_wf (v := { v with t1l := withHighByte v.t1l d }) h
  case h_8 => exact restartT1_wf (v := { v with t1l := withHighByte v.t1l d }) h
  case h_10 => exact clearFlag_low t2Bit h
  case h_14 => exact ifrWriteValue_low d h
  all_goals exact h

end Sys2Proof.Machine
end

