-- ==== Sys2Proof/Laws/Frames.lean ====
section
/-! SUPPORT. What the operations on peripherals can change: nothing but the instances, the oracle's place and the
events. Each lemma stands for the shared operation it names; proofs about `exec` cite it. -/

namespace Sys2Proof.Machine

/-- From `s` to `t` only the peripheral instances, the oracle's place and the events may differ; the number of
instances and their construction parameters stay, and events are only appended. -/
structure DevicesOnly (s t : State) : Prop where
  rest : t = { s with acias := t.acias, vias := t.vias, env := t.env, events := t.events }
  vias : t.vias.length = s.vias.length
  acias : t.acias.length = s.acias.length
  built : ∀ (i : Nat) (a b : Acia), s.acias[i]? = some a → t.acias[i]? = some b → sameConstruction a b
  log : ∃ l, t.events = s.events ++ l ∧ ∀ e ∈ l, ∃ k b, e = .portWrite k b

theorem DevicesOnly.refl (s : State) : DevicesOnly s s :=
  ⟨rfl, rfl, rfl, fun _ _ _ h1 h2 => by rw [h1] at h2; cases h2; exact ⟨rfl, rfl⟩, [], by simp⟩

theorem DevicesOnly.trans {s t u : State} (h1 : DevicesOnly s t) (h2 : DevicesOnly t u) : DevicesOnly s u := by
  refine ⟨?_, h2.vias.trans h1.vias, h2.acias.trans h1.acias, fun i a b ha hb => ?_, ?_⟩
  · have e2 := h2.rest
    rw [h1.rest] at e2
    exact e2
  · have hi : i < t.acias.length := by
      rw [h1.acias]; exact (List.getElem?_eq_some_iff.mp ha).1
    obtain ⟨m1, m2⟩ := h1.built i a _ ha (List.getElem?_eq_getElem hi)
    obtain ⟨m3, m4⟩ := h2.built i _ b (List.getElem?_eq_getElem hi) hb
    exact ⟨m3.trans m1, m4.trans m2⟩
  · obtain ⟨l1, e1, m1⟩ := h1.log
    obtain ⟨l2, e2, m2⟩ := h2.log
    refine ⟨l1 ++ l2, by rw [e2, e1, List.append_assoc], fun e he => ?_⟩
    rcases List.mem_append.mp he with he | he
    · exact m1 e he
    · exact m2 e he

theorem devicesOnly_rtr {s t : State} (h : DevicesOnly s t) : t.rtr = s.rtr := by rw [h.rest]
theorem devicesOnly_hub {s t : State} (h : DevicesOnly s t) : t.hub = s.hub := by rw [h.rest]
theorem devicesOnly_agg {s t : State} (h : DevicesOnly s t) : t.agg = s.agg := by rw [h.rest]
theorem devicesOnly_params {s t : State} (h : DevicesOnly s t) : t.params = s.params := by rw [h.rest]
theorem devicesOnly_requests {s t : State} (h : DevicesOnly s t) : t.requests = s.requests := by rw [h.rest]
theorem devicesOnly_reply {s t : State} (h : DevicesOnly s t) : t.reply = s.reply := by rw [h.rest]

/-- Every instance is well-formed. -/
abbrev devicesWf (s : State) : Prop := (∀ a ∈ s.acias, aciaWf s.params a) ∧ ∀ v ∈ s.vias, viaWf v

theorem forall_mem_set {α : Type} {P : α → Prop} {l : List α} {i : Nat} {x : α} (h : ∀ y ∈ l, P y) (hx : P x) :
    ∀ y ∈ l.set i x, P y := fun y hy => by
  rcases List.mem_or_eq_of_mem_set hy with hy | rfl
  · exact h y hy
  · exact hx

theorem mem_of_getElem?_some {α : Type} {l : List α} {i : Nat} {x : α} (h : l[i]? = some x) : x ∈ l :=
  List.mem_of_getElem? h

/-- Putting back an ACIA with the same construction parameters, an oracle's place and some port events. -/
theorem setAcia_devicesOnly {i : Nat} {s : State} {a b : Acia} (h : s.acias[i]? = some a)
    (hc : sameConstruction a b) (e : Env) (l : List Event) (hl : ∀ x ∈ l, ∃ k d, x = .portWrite k d) :
    DevicesOnly s { setAcia i b s with env := e, events := s.events ++ l } := by
  refine ⟨rfl, rfl, by simp, fun j x y hx hy => ?_, l, rfl, hl⟩
  simp only [setAcia_acias, List.getElem?_set] at hy
  split at hy
  · rename_i hij
    subst hij
    rw [h] at hx; cases hx
    split at hy
    · cases hy; exact hc
    · cases hy
  · rw [hx] at hy; cases hy; exact ⟨rfl, rfl⟩

theorem setVia_devicesOnly (i : Nat) (s : State) (v : Via) : DevicesOnly s (setVia i v s) :=
  ⟨rfl, by simp, rfl, fun _ _ _ h1 h2 => by rw [setVia_acias, h1] at h2; cases h2; exact ⟨rfl, rfl⟩, [], by simp⟩

/-- The events of one ACIA tick: one `port.write` of the transmit register at most (R175). -/
theorem aciaTxAdvance_events (c : Nat) (a : Acia) :
    (aciaTxAdvance c a).2 = [] ∨ ∃ k, a.port = some k ∧ (aciaTxAdvance c a).2 = [.portWrite k a.tdr] := by
  simp only [aciaTxAdvance]
  split
  · split
    · cases a.port with
      | none => exact .inl rfl
      | some k => exact .inr ⟨k, rfl, rfl⟩
    · exact .inl rfl
  · exact .inl rfl

theorem aciaTickAt_devicesOnly {i : Nat} (c : Nat) {a : Acia} {s : State} (h : s.acias[i]? = some a) :
    DevicesOnly s (aciaTickAt i c a s) := by
  refine setAcia_devicesOnly h ?_ _ _ ?_
  · have h1 := aciaTxAdvance_construction c a
    have h2 := aciaRxAdvance_construction s.params c (aciaTxAdvance c a).1
    have h3 := aciaRxPoll_construction (aciaRxAdvance s.params c (aciaTxAdvance c a).1) s.env
    exact ⟨h3.1.trans (h2.1.trans h1.1), h3.2.trans (h2.2.trans h1.2)⟩
  · intro x hx
    rcases aciaTxAdvance_events c a with he | ⟨k, _, he⟩
    · rw [he] at hx; cases hx
    · rw [he] at hx; exact ⟨k, a.tdr, by simpa using hx⟩

theorem pRead_devicesOnly (p : PeriphRef) (off : Nat) (s : State) :
    DevicesOnly s (pRead p off s).2 := by
  rcases periph_cases p s with ⟨i, a, rfl, h⟩ | ⟨i, v, rfl, h⟩ | h
  · have hc : sameConstruction a (aciaRead s.params off a s.env).2.1 := by
      unfold aciaRead
      split
      · exact ⟨rfl, rfl⟩
      · exact aciaDataRead_construction a
      · exact ⟨rfl, rfl⟩
    rw [pRead_acia h]
    simpa using setAcia_devicesOnly h hc (aciaRead s.params off a s.env).2.2 [] (by simp)
  · rw [pRead_via h]
    exact setVia_devicesOnly i s _
  · rw [(periph_absent h off 0 0).1]
    exact .refl s

theorem pWrite_devicesOnly (p : PeriphRef) (off : Nat) (d : Byte) (s : State) :
    DevicesOnly s (pWrite p off d s) := by
  rcases periph_cases p s with ⟨i, a, rfl, h⟩ | ⟨i, v, rfl, h⟩ | h
  · have hc : sameConstruction a (aciaWrite off d a) := by
      unfold aciaWrite
      split
      · exact aciaControlWrite_construction a d
      · exact aciaDataWrite_construction a d
      · exact ⟨rfl, rfl⟩
    rw [pWrite_acia h]
    simpa [setAcia] using setAcia_devicesOnly h hc s.env [] (by simp)
  · rw [pWrite_via h]
    exact setVia_devicesOnly i s _
  · rw [(periph_absent h off 0 d).2.1]
    exact .refl s

theorem pReset_devicesOnly (p : PeriphRef) (s : State) :
    DevicesOnly s (pReset p s) := by
  rcases periph_cases p s with ⟨i, a, rfl, h⟩ | ⟨i, v, rfl, h⟩ | h
  · rw [pReset_acia h]
    simpa [setAcia] using setAcia_devicesOnly h (b := aciaResetState a) ⟨rfl, rfl⟩ s.env [] (by simp)
  · rw [pReset_via h]
    exact setVia_devicesOnly i s _
  · rw [(periph_absent h 0 0 0).2.2.1]
    exact .refl s

theorem pTick_devicesOnly (p : PeriphRef) (c : Nat) (s : State) :
    DevicesOnly s (pTick p c s) := by
  rcases periph_cases p s with ⟨i, a, rfl, h⟩ | ⟨i, v, rfl, h⟩ | h
  · rw [pTick_acia h]
    exact aciaTickAt_devicesOnly c h
  · rw [pTick_via h]
    exact setVia_devicesOnly i s _
  · rw [(periph_absent h 0 c 0).2.2.2.1]
    exact .refl s

/-- A relation that every element's operation respects is respected by the whole loop. -/
theorem foldl_relates {α : Type} {R : State → State → Prop} {f : State → α → State} (hrefl : ∀ s, R s s)
    (htrans : ∀ {s t u}, R s t → R t u → R s u) (hf : ∀ s x, R s (f s x)) :
    ∀ (l : List α) (s : State), R s (l.foldl f s)
  | [], s => hrefl s
  | x :: xs, s => htrans (hf s x) (foldl_relates hrefl htrans hf xs (f s x))

/-- A property that every element's operation keeps is kept by the whole loop. -/
theorem foldl_keeps {α : Type} {P : State → Prop} {f : State → α → State} (hf : ∀ s x, P s → P (f s x)) :
    ∀ (l : List α) (s : State), P s → P (l.foldl f s)
  | [], _, h => h
  | x :: xs, s, h => foldl_keeps hf xs (f s x) (hf s x h)

theorem hubTickAll_devicesOnly (c : Nat) (s : State) : DevicesOnly s (hubTickAll c s) :=
  foldl_relates DevicesOnly.refl DevicesOnly.trans (fun t (b : Binding) => pTick_devicesOnly b.periph c t) _ s

theorem resetBound_devicesOnly (s : State) : DevicesOnly s (resetBound s) :=
  foldl_relates DevicesOnly.refl DevicesOnly.trans (fun t (b : Binding) => pReset_devicesOnly b.periph t) _ s

/-! ## The instances stay well-formed -/

theorem pRead_devicesWf (p : PeriphRef) (off : Nat) {s : State} (h : devicesWf s) :
    devicesWf (pRead p off s).2 := by
  rcases periph_cases p s with ⟨i, a, rfl, hi⟩ | ⟨i, v, rfl, hi⟩ | hi
  · have ha := h.1 a (mem_of_getElem?_some hi)
    rw [pRead_acia hi]
    refine ⟨forall_mem_set h.1 ?_, h.2⟩
    unfold aciaRead
    split
    · exact ha
    · exact aciaDataRead_wf ha
    · exact ha
  · rw [pRead_via hi]
    exact ⟨h.1, forall_mem_set h.2 (viaRead_wf _ _ (h.2 v (mem_of_getElem?_some hi)))⟩
  · rw [(periph_absent hi off 0 0).1]
    exact h

theorem pWrite_devicesWf (p : PeriphRef) (off : Nat) (d : Byte) {s : State} (h : devicesWf s) :
    devicesWf (pWrite p off d s) := by
  rcases periph_cases p s with ⟨i, a, rfl, hi⟩ | ⟨i, v, rfl, hi⟩ | hi
  · have ha := h.1 a (mem_of_getElem?_some hi)
    rw [pWrite_acia hi]
    refine ⟨forall_mem_set h.1 ?_, h.2⟩
    unfold aciaWrite
    split
    · exact aciaControlWrite_wf d ha
    · exact aciaDataWrite_wf d ha
    · exact ha
  · rw [pWrite_via hi]
    exact ⟨h.1, forall_mem_set h.2 (viaWrite_wf _ _ (h.2 v (mem_of_getElem?_some hi)))⟩
  · rw [(periph_absent hi off 0 d).2.1]
    exact h

theorem pReset_devicesWf (p : PeriphRef) {s : State} (h : devicesWf s) :
    devicesWf (pReset p s) := by
  rcases periph_cases p s with ⟨i, a, rfl, hi⟩ | ⟨i, v, rfl, hi⟩ | hi
  · rw [pReset_acia hi]
    exact ⟨forall_mem_set h.1 (aciaResetState_wf (h.1 a (mem_of_getElem?_some hi))), h.2⟩
  · rw [pReset_via hi]
    exact ⟨h.1, forall_mem_set h.2 (viaFresh_wf)⟩
  · rw [(periph_absent hi 0 0 0).2.2.1]
    exact h

theorem aciaTickAt_devicesWf {i : Nat} (c : Nat) {a : Acia} {s : State} (hi : s.acias[i]? = some a)
    (h : devicesWf s) : devicesWf (aciaTickAt i c a s) := by
  have ha := h.1 a (mem_of_getElem?_some hi)
  exact ⟨forall_mem_set h.1 (aciaRxPoll_wf _ (aciaRxAdvance_wf c (aciaTxAdvance_wf c ha))), h.2⟩

theorem pTick_devicesWf (p : PeriphRef) (c : Nat) {s : State} (h : devicesWf s) :
    devicesWf (pTick p c s) := by
  rcases periph_cases p s with ⟨i, a, rfl, hi⟩ | ⟨i, v, rfl, hi⟩ | hi
  · rw [pTick_acia hi]
    exact aciaTickAt_devicesWf c hi h
  · rw [pTick_via hi]
    exact ⟨h.1, forall_mem_set h.2 (viaTickStep_wf c (h.2 v (mem_of_getElem?_some hi)))⟩
  · rw [(periph_absent hi 0 c 0).2.2.2.1]
    exact h

theorem hubTickAll_devicesWf (c : Nat) {s : State} (h : devicesWf s) : devicesWf (hubTickAll c s) :=
  foldl_keeps (P := devicesWf) (fun _ (b : Binding) ht => pTick_devicesWf b.periph c ht) _ s h

theorem resetBound_devicesWf {s : State} (h : devicesWf s) : devicesWf (resetBound s) :=
  foldl_keeps (P := devicesWf) (fun _ (b : Binding) ht => pReset_devicesWf b.periph ht) _ s h

end Sys2Proof.Machine
end

