-- ==== Sys2Proof/Laws/PerInstr.lean ====
section
/-! SUPPORT. Statements made of every instruction, one lemma per constructor of `Instr`. -/

namespace Sys2Proof.Laws

/-- How many bits a format's word has (R100). -/
def formatBits : Format → Nat
  | .b => 25
  | .p => 26
  | .m => 8

theorem packB_fits {write : Bool} {addr data : Nat} (ha : addr < 2 ^ 16) (hd : data < 2 ^ 8) :
    (packB write addr data).toNat < 2 ^ 25 := by
  have hw : write.toNat ≤ 1 := Bool.toNat_le write
  simp only [packB, BitVec.toNat_ofNat]
  refine lt_of_le_of_lt (Nat.mod_le _ _) ?_
  omega

theorem packP_fits (chip write : Bool) {off : Nat} (d : Byte) (ho : off < 2 ^ 16) :
    (packP chip write off d).toNat < 2 ^ 26 := by
  have hc : chip.toNat ≤ 1 := Bool.toNat_le chip
  have hw : write.toNat ≤ 1 := Bool.toNat_le write
  have hd := d.isLt
  simp only [packP, BitVec.toNat_ofNat]
  refine lt_of_le_of_lt (Nat.mod_le _ _) ?_
  omega

theorem selector_fits (sel : Nat) (h : sel < 2 ^ 8) : (BitVec.ofNat 32 sel).toNat < 2 ^ 8 := by
  rw [BitVec.toNat_ofNat]
  exact lt_of_le_of_lt (Nat.mod_le _ _) h

/-- The word of a well-formed instruction has no bit beyond its format's width (R100). -/
def WordFits.Statement (i : Instr) : Prop :=
  i.wf = true → (encode i).word.toNat < 2 ^ formatBits (encode i).fmt

namespace WordFits

theorem busRead (addr : Nat) : Statement (.busRead addr) := fun h =>
  packB_fits (by simpa [Instr.wf, fitsAddr] using h) (by decide)
theorem busWrite (addr v : Nat) : Statement (.busWrite addr v) := fun h =>
  have h' : addr < 2 ^ 16 ∧ v < 2 ^ 8 := by simpa [Instr.wf, fitsAddr, fitsData] using h
  packB_fits h'.1 h'.2
theorem aciaStatusR (inst : Nat) : Statement (.aciaStatusR inst) := fun _ =>
  packP_fits _ _ _ (by decide)
theorem aciaCtrlW (inst : Nat) (v : Byte) : Statement (.aciaCtrlW inst v) := fun _ =>
  packP_fits _ _ _ (by decide)
theorem aciaRdrR (inst : Nat) : Statement (.aciaRdrR inst) := fun _ =>
  packP_fits _ _ _ (by decide)
theorem aciaTdrW (inst : Nat) (v : Byte) : Statement (.aciaTdrW inst v) := fun _ =>
  packP_fits _ _ _ (by decide)
theorem aciaUndefR (inst : Nat) (off : Half) : Statement (.aciaUndefR inst off) := fun _ =>
  packP_fits _ _ _ off.isLt
theorem aciaUndefW (inst : Nat) (off : Half) (v : Byte) : Statement (.aciaUndefW inst off v) := fun _ =>
  packP_fits _ _ _ off.isLt
theorem viaOrbR (inst : Nat) : Statement (.viaOrbR inst) := fun _ =>
  packP_fits _ _ _ (by decide)
theorem viaOrbW (inst : Nat) (d : Byte) : Statement (.viaOrbW inst d) := fun _ =>
  packP_fits _ _ _ (by decide)
theorem viaOraR (inst : Nat) : Statement (.viaOraR inst) := fun _ =>
  packP_fits _ _ _ (by decide)
theorem viaOraW (inst : Nat) (d : Byte) : Statement (.viaOraW inst d) := fun _ =>
  packP_fits _ _ _ (by decide)
theorem viaDdrbR (inst : Nat) : Statement (.viaDdrbR inst) := fun _ =>
  packP_fits _ _ _ (by decide)
theorem viaDdrbW (inst : Nat) (d : Byte) : Statement (.viaDdrbW inst d) := fun _ =>
  packP_fits _ _ _ (by decide)
theorem viaDdraR (inst : Nat) : Statement (.viaDdraR inst) := fun _ =>
  packP_fits _ _ _ (by decide)
theorem viaDdraW (inst : Nat) (d : Byte) : Statement (.viaDdraW inst d) := fun _ =>
  packP_fits _ _ _ (by decide)
theorem viaT1clR (inst : Nat) : Statement (.viaT1clR inst) := fun _ =>
  packP_fits _ _ _ (by decide)
theorem viaT1clW (inst : Nat) (d : Byte) : Statement (.viaT1clW inst d) := fun _ =>
  packP_fits _ _ _ (by decide)
theorem viaT1chR (inst : Nat) : Statement (.viaT1chR inst) := fun _ =>
  packP_fits _ _ _ (by decide)
theorem viaT1chW (inst : Nat) (d : Byte) : Statement (.viaT1chW inst d) := fun _ =>
  packP_fits _ _ _ (by decide)
theorem viaT1llR (inst : Nat) : Statement (.viaT1llR inst) := fun _ =>
  packP_fits _ _ _ (by decide)
theorem viaT1llW (inst : Nat) (d : Byte) : Statement (.viaT1llW inst d) := fun _ =>
  packP_fits _ _ _ (by decide)
theorem viaT1lhR (inst : Nat) : Statement (.viaT1lhR inst) := fun _ =>
  packP_fits _ _ _ (by decide)
theorem viaT1lhW (inst : Nat) (d : Byte) : Statement (.viaT1lhW inst d) := fun _ =>
  packP_fits _ _ _ (by decide)
theorem viaT2clR (inst : Nat) : Statement (.viaT2clR inst) := fun _ =>
  packP_fits _ _ _ (by decide)
theorem viaT2clW (inst : Nat) (d : Byte) : Statement (.viaT2clW inst d) := fun _ =>
  packP_fits _ _ _ (by decide)
theorem viaT2chR (inst : Nat) : Statement (.viaT2chR inst) := fun _ =>
  packP_fits _ _ _ (by decide)
theorem viaT2chW (inst : Nat) (d : Byte) : Statement (.viaT2chW inst d) := fun _ =>
  packP_fits _ _ _ (by decide)
theorem viaSrR (inst : Nat) : Statement (.viaSrR inst) := fun _ =>
  packP_fits _ _ _ (by decide)
theorem viaSrW (inst : Nat) (d : Byte) : Statement (.viaSrW inst d) := fun _ =>
  packP_fits _ _ _ (by decide)
theorem viaAcrR (inst : Nat) : Statement (.viaAcrR inst) := fun _ =>
  packP_fits _ _ _ (by decide)
theorem viaAcrW (inst : Nat) (d : Byte) : Statement (.viaAcrW inst d) := fun _ =>
  packP_fits _ _ _ (by decide)
theorem viaPcrR (inst : Nat) : Statement (.viaPcrR inst) := fun _ =>
  packP_fits _ _ _ (by decide)
theorem viaPcrW (inst : Nat) (d : Byte) : Statement (.viaPcrW inst d) := fun _ =>
  packP_fits _ _ _ (by decide)
theorem viaIfrR (inst : Nat) : Statement (.viaIfrR inst) := fun _ =>
  packP_fits _ _ _ (by decide)
theorem viaIfrW (inst : Nat) (d : Byte) : Statement (.viaIfrW inst d) := fun _ =>
  packP_fits _ _ _ (by decide)
theorem viaIerR (inst : Nat) : Statement (.viaIerR inst) := fun _ =>
  packP_fits _ _ _ (by decide)
theorem viaIerW (inst : Nat) (d : Byte) : Statement (.viaIerW inst d) := fun _ =>
  packP_fits _ _ _ (by decide)
theorem viaOranhR (inst : Nat) : Statement (.viaOranhR inst) := fun _ =>
  packP_fits _ _ _ (by decide)
theorem viaOranhW (inst : Nat) (d : Byte) : Statement (.viaOranhW inst d) := fun _ =>
  packP_fits _ _ _ (by decide)
theorem viaUndefR (inst : Nat) (off : Half) : Statement (.viaUndefR inst off) := fun _ =>
  packP_fits _ _ _ off.isLt
theorem viaUndefW (inst : Nat) (off : Half) (d : Byte) : Statement (.viaUndefW inst off d) := fun _ =>
  packP_fits _ _ _ off.isLt
theorem rtrConfigRam (start size : Nat) : Statement (.rtrConfigRam start size) := fun _ =>
  selector_fits 0x00 (by decide)
theorem rtrLoadRom (data : List Byte) (start : Nat) : Statement (.rtrLoadRom data start) := fun _ =>
  selector_fits 0x01 (by decide)
theorem rtrMapIo (start stop : Nat) (periph : PeriphRef) : Statement (.rtrMapIo start stop periph) := fun _ =>
  selector_fits 0x02 (by decide)
theorem rtrClearRam : Statement .rtrClearRam := fun _ =>
  selector_fits 0x03 (by decide)
theorem hubRegister (periph : PeriphRef) (start stop : Nat) (name : String) : Statement (.hubRegister periph start stop name) := fun _ =>
  selector_fits 0x04 (by decide)
theorem hubUnregister (name : String) : Statement (.hubUnregister name) := fun _ =>
  selector_fits 0x05 (by decide)
theorem hubTick (cycles : Nat) : Statement (.hubTick cycles) := fun _ =>
  selector_fits 0x06 (by decide)
theorem hubCollect : Statement .hubCollect := fun _ =>
  selector_fits 0x07 (by decide)
theorem aciaTick (inst cycles : Nat) : Statement (.aciaTick inst cycles) := fun _ =>
  selector_fits 0x10 (by decide)
theorem aciaReset (inst : Nat) : Statement (.aciaReset inst) := fun _ =>
  selector_fits 0x11 (by decide)
theorem aciaIrq (inst : Nat) : Statement (.aciaIrq inst) := fun _ =>
  selector_fits 0x12 (by decide)
theorem viaTick (inst cycles : Nat) : Statement (.viaTick inst cycles) := fun _ =>
  selector_fits 0x18 (by decide)
theorem viaReset (inst : Nat) : Statement (.viaReset inst) := fun _ =>
  selector_fits 0x19 (by decide)
theorem viaIrq (inst : Nat) : Statement (.viaIrq inst) := fun _ =>
  selector_fits 0x1A (by decide)
theorem aggTrigIrq (source : Source) : Statement (.aggTrigIrq source) := fun _ =>
  selector_fits 0x20 (by decide)
theorem aggTrigNmi (source : Source) : Statement (.aggTrigNmi source) := fun _ =>
  selector_fits 0x21 (by decide)
theorem aggClrIrq (source : Source) : Statement (.aggClrIrq source) := fun _ =>
  selector_fits 0x22 (by decide)
theorem aggClrNmi (source : Source) : Statement (.aggClrNmi source) := fun _ =>
  selector_fits 0x23 (by decide)
theorem aggUpdate (activeNames : List String) : Statement (.aggUpdate activeNames) := fun _ =>
  selector_fits 0x24 (by decide)
theorem aggReset : Statement .aggReset := fun _ =>
  selector_fits 0x25 (by decide)
theorem aggIrqPend : Statement .aggIrqPend := fun _ =>
  selector_fits 0x26 (by decide)
theorem aggNmiPend : Statement .aggNmiPend := fun _ =>
  selector_fits 0x27 (by decide)
theorem sysStep (accesses : List Access) (cycles : Nat) : Statement (.sysStep accesses cycles) := fun _ =>
  selector_fits 0x30 (by decide)
theorem sysReset : Statement .sysReset := fun _ =>
  selector_fits 0x31 (by decide)
theorem sysAttach (name : String) (start stop : Nat) (periph : PeriphRef) : Statement (.sysAttach name start stop periph) := fun _ =>
  selector_fits 0x32 (by decide)
theorem sysDetach (name : String) : Statement (.sysDetach name) := fun _ =>
  selector_fits 0x33 (by decide)

end WordFits

end Sys2Proof.Laws
end

