-- ==== Sys2Proof/Tests/Slice0.lean ====
section
/-! SUPPORT. Tests of one operation each, on small states, with the expected values of `spec/95_test_vectors.md`
(its vector is named in each docstring) or computed by hand from the rule named; the smoke tests of
`WellFormed.lean`; every constructor's decoding from a word written out from R101 to R103; and for every obligation
with hypotheses a witness that meets them. -/

namespace Sys2Proof.Tests

open Sys2Proof Sys2Proof.Machine

/-! ## Well-formedness: an ill-formed term for each check, and the last good value beside it -/

theorem test_wf_refuses_wide_address : (Instr.busRead 0x10000).wf = false ∧ (Instr.busRead 0xFFFF).wf = true := by
  decide
theorem test_wf_refuses_wide_address_of_write :
    (Instr.busWrite 0x10000 0).wf = false ∧ (Instr.busWrite 0xFFFF 0).wf = true := by decide
theorem test_wf_refuses_wide_datum :
    (Instr.busWrite 0 0x100).wf = false ∧ (Instr.busWrite 0 0xFF).wf = true := by decide
theorem test_wf_refuses_acia_register_as_undefined :
    (Instr.aciaUndefR 0 1).wf = false ∧ (Instr.aciaUndefW 0 1 0).wf = false ∧
    (Instr.aciaUndefR 0 2).wf = true ∧ (Instr.aciaUndefW 0 2 0).wf = true := by decide
theorem test_wf_refuses_via_register_as_undefined :
    (Instr.viaUndefR 0 15).wf = false ∧ (Instr.viaUndefW 0 15 0).wf = false ∧
    (Instr.viaUndefR 0 16).wf = true ∧ (Instr.viaUndefW 0 16 0).wf = true := by decide

/-! ## Decoding: words written out from the encoding -/

/-- R101, field by field: unused bits, `w`, `addr`, `data`. -/
theorem test_decode_b_fields :
    decode { fmt := .b, word := 0b0000000#7 ++ 0b1#1 ++ 0b1000000000000001#16 ++ 0b01000001#8 } =
      .ok (.busWrite 0x8001 0x41) := by rfl

/-- R102, field by field: unused bits, chip type, `w`, `off`, `data`. -/
theorem test_decode_p_fields :
    decode { fmt := .p, word := 0b000000#6 ++ 0b1#1 ++ 0b1#1 ++ 0b0000000000001110#16 ++ 0b11000000#8
             args := { inst := 2 } } = .ok (.viaIerW 2 0xC0#8) := by rfl

/-- R103, field by field: unused bits, selector. -/
theorem test_decode_m_fields :
    decode { fmt := .m, word := 0b000000000000000000000000#24 ++ 0b00011000#8
             args := { inst := 1, cycles := 16 } } = .ok (.viaTick 1 16) := by rfl

/-- What the decoder reads; none where it refuses. -/
def decoded (r : Request) : Option Instr :=
  match decode r with
  | .ok i => some i
  | .error _ => none

/-- R101. A read does not look at `data`. -/
theorem test_decode_b : ∀ x ∈ [(0x0800000#32, Instr.busRead 0x8000), (0x08000FF#32, .busRead 0x8000),
    (0x1800003#32, .busWrite 0x8000 3), (0x1900EC0#32, .busWrite 0x900E 0xC0)],
    decoded { fmt := .b, word := x.1 } = some x.2 := by decide

/-- R102, R111: the ACIA rows. -/
theorem test_decode_acia : ∀ x ∈ [(0x0000000#32, Instr.aciaStatusR 3), (0x1000095#32, .aciaCtrlW 3 0x95#8),
    (0x0000100#32, .aciaRdrR 3), (0x1000141#32, .aciaTdrW 3 0x41#8), (0x0000200#32, .aciaUndefR 3 2#16),
    (0x0FFFF00#32, .aciaUndefR 3 0xFFFF#16), (0x1000203#32, .aciaUndefW 3 2#16 0x03#8)],
    decoded { fmt := .p, word := x.1, args := { inst := 3 } } = some x.2 := by decide

/-- R102, R112: the VIA read rows. -/
theorem test_decode_via_reads : ∀ x ∈ [(0x2000000#32, Instr.viaOrbR 3), (0x2000100#32, .viaOraR 3),
    (0x2000200#32, .viaDdrbR 3), (0x2000300#32, .viaDdraR 3), (0x2000400#32, .viaT1clR 3),
    (0x2000500#32, .viaT1chR 3), (0x2000600#32, .viaT1llR 3), (0x2000700#32, .viaT1lhR 3),
    (0x2000800#32, .viaT2clR 3), (0x2000900#32, .viaT2chR 3), (0x2000A00#32, .viaSrR 3),
    (0x2000B00#32, .viaAcrR 3), (0x2000C00#32, .viaPcrR 3), (0x2000D00#32, .viaIfrR 3),
    (0x2000E00#32, .viaIerR 3), (0x2000F00#32, .viaOranhR 3), (0x2001000#32, .viaUndefR 3 0x10#16)],
    decoded { fmt := .p, word := x.1, args := { inst := 3 } } = some x.2 := by decide

/-- R102, R112: the VIA write rows. -/
theorem test_decode_via_writes : ∀ x ∈ [(0x3000081#32, Instr.viaOrbW 3 0x81#8), (0x300013C#32, .viaOraW 3 0x3C#8),
    (0x30002FF#32, .viaDdrbW 3 0xFF#8), (0x30003F0#32, .viaDdraW 3 0xF0#8), (0x3000410#32, .viaT1clW 3 0x10#8),
    (0x3000500#32, .viaT1chW 3 0x00#8), (0x3000620#32, .viaT1llW 3 0x20#8), (0x3000701#32, .viaT1lhW 3 0x01#8),
    (0x3000805#32, .viaT2clW 3 0x05#8), (0x3000901#32, .viaT2chW 3 0x01#8), (0x3000AAA#32, .viaSrW 3 0xAA#8),
    (0x3000B40#32, .viaAcrW 3 0x40#8), (0x3000CEE#32, .viaPcrW 3 0xEE#8), (0x3000D40#32, .viaIfrW 3 0x40#8),
    (0x3000EC0#32, .viaIerW 3 0xC0#8), (0x3000F12#32, .viaOranhW 3 0x12#8), (0x30010FF#32, .viaUndefW 3 0x10#16 0xFF#8)],
    decoded { fmt := .p, word := x.1, args := { inst := 3 } } = some x.2 := by decide

/-- Operands that differ from each other and from zero, for the tests of format M. -/
def operandsM : Operands :=
  { inst := 3, start := 0x9000, stop := 0x900F, size := 0x100, data := [0xEA#8], periph := .via 1, name := "p"
    cycles := 7, source := .other "o", activeNames := ["q"], accesses := [.read 5] }

/-- R103, R110: the router's and the hub's selectors. -/
theorem test_decode_router_and_hub : ∀ x ∈ [(0x00#32, Instr.rtrConfigRam 0x9000 0x100),
    (0x01#32, .rtrLoadRom [0xEA#8] 0x9000), (0x02#32, .rtrMapIo 0x9000 0x900F (.via 1)), (0x03#32, .rtrClearRam),
    (0x04#32, .hubRegister (.via 1) 0x9000 0x900F "p"), (0x05#32, .hubUnregister "p"), (0x06#32, .hubTick 7),
    (0x07#32, .hubCollect)], decoded { fmt := .m, word := x.1, args := operandsM } = some x.2 := by decide

/-- R103, R110: the selectors of the two chips. -/
theorem test_decode_chips : ∀ x ∈ [(0x10#32, Instr.aciaTick 3 7), (0x11#32, .aciaReset 3), (0x12#32, .aciaIrq 3),
    (0x18#32, .viaTick 3 7), (0x19#32, .viaReset 3), (0x1A#32, .viaIrq 3)],
    decoded { fmt := .m, word := x.1, args := operandsM } = some x.2 := by decide

/-- R103, R110: the aggregator's and the composite selectors. -/
theorem test_decode_aggregator_and_system : ∀ x ∈ [(0x20#32, Instr.aggTrigIrq (.other "o")),
    (0x21#32, .aggTrigNmi (.other "o")), (0x22#32, .aggClrIrq (.other "o")), (0x23#32, .aggClrNmi (.other "o")),
    (0x24#32, .aggUpdate ["q"]), (0x25#32, .aggReset), (0x26#32, .aggIrqPend), (0x27#32, .aggNmiPend),
    (0x30#32, .sysStep [.read 5] 7), (0x31#32, .sysReset), (0x32#32, .sysAttach "p" 0x9000 0x900F (.via 1)),
    (0x33#32, .sysDetach "p")], decoded { fmt := .m, word := x.1, args := operandsM } = some x.2 := by decide

/-- R117, U8: unlisted selectors and words beyond their format. -/
theorem test_decode_refuses :
    decode { fmt := .m, word := 0x08#32 } = .error (.unknownSelector 0x08#8) ∧
    decode { fmt := .m, word := 0x34#32 } = .error (.unknownSelector 0x34#8) ∧
    decode { fmt := .m, word := 0x100#32 } = .error .wordTooWide ∧
    decode { fmt := .b, word := 0x2000000#32 } = .error .wordTooWide ∧
    decode { fmt := .p, word := 0x4000000#32 } = .error .unknownChip :=
  ⟨rfl, rfl, rfl, rfl, rfl⟩

/-! ## Small states -/

/-- What an operation leaves; none where it does not answer a next state. -/
def ran (i : Instr) (s : State) : Option State :=
  match exec i s with
  | .next t => some t
  | .fault _ => none
  | .refused _ => none

/-- What an operation returns. -/
def said (i : Instr) (s : State) : Option Reply := (ran i s).map State.reply

/-- A state with one ACIA. -/
def withAcia (a : Acia) : State := { State.reset with acias := [a] }

/-- A state with one VIA. -/
def withVia (v : Via) : State := { State.reset with vias := [v] }

/-- The ACIA after an operation on instance 0. -/
def aciaOf (i : Instr) (a : Acia) : Option Acia := (ran i (withAcia a)).bind fun t => t.acias[0]?

/-- The VIA after an operation on instance 0. -/
def viaOf (i : Instr) (v : Via) : Option Via := (ran i (withVia v)).bind fun t => t.vias[0]?

/-- A fresh ACIA with `BAUD` 9600 and port 0. -/
def ported : Acia := aciaFresh 9600 (some 0)

/-- RAM `$0000` to `$7FFF` with one byte stored, a ROM of two bytes at `$C000`, the ACIA at `$8000` to `$8001` and the
VIA at `$9000` to `$900F` attached (the example platform of R9, but for the ROM's length). -/
def platform : State :=
  { State.reset with
    rtr :=
      { ram := some { base := 0x0000, size := 0x8000, bytes := [(0x0010, 0x77#8)] }
        roms := [{ base := 0xC000, bytes := [0xEA#8, 0x4C#8] }]
        ios := [{ start := 0x8000, stop := 0x8001, periph := .acia 0 },
          { start := 0x9000, stop := 0x900F, periph := .via 0 }] }
    hub :=
      { bindings := [{ name := "acia", start := 0x8000, stop := 0x8001, periph := .acia 0 },
          { name := "via", start := 0x9000, stop := 0x900F, periph := .via 0 }] }
    acias := [ported] }

/-! ## The bus router -/

/-! ## The bus router and the memory router -/

/-- R-1, R-3, P3: ROM, then IO, then RAM, else `$FF`; the address is reduced. -/
theorem test_busRead_resolves :
    [0xC001, 0x1C000, 0xC002, 0x8001, 0x10010, 0x0011, 0xA000].map (fun a => said (.busRead a) platform) =
      [0x4C#8, 0xEA#8, 0xFF#8, 0x00#8, 0x77#8, 0x00#8, 0xFF#8].map (fun b => some (.byte b)) := by decide

/-- R144, V-4: a read of the VIA's offset 4 by the bus clears the Timer 1 flag. -/
theorem test_busRead_acknowledges :
    ((ran (.busRead 0x9004) { platform with vias := [{ viaFresh with ifr := 0x60#7 }] }).map fun t =>
      t.vias.map Via.ifr) = some [0x20#7] := by decide

/-- R-1, R-2: address and datum are reduced. -/
theorem test_busWrite_reduces :
    ((ran (.busWrite 0x10200 0x15A) platform).bind fun t => ramByte t 0x0200) = some 0x5A#8 := by decide

/-- R-3, P1: a write to ROM is dropped, one to an IO region reaches the chip. -/
theorem test_busWrite_drops_and_forwards :
    ran (.busWrite 0xC000 0x55) platform = some platform ∧
    ((ran (.busWrite 0x8000 0x11) platform).map fun t => t.acias.map Acia.cyclesPerBit) = some [1666] := by decide

/-- R-7: the old block is gone, the new one is zero; size 0 leaves none. -/
theorem test_rtrConfigRam_replaces :
    ((ran (.rtrConfigRam 0x0200 0x100) platform).map fun t =>
      [0x0010, 0x01FF, 0x0200, 0x02FF, 0x0300].map (ramByte t)) =
      some [none, none, some 0x00#8, some 0x00#8, none] ∧
    ((ran (.rtrConfigRam 0 0) platform).map fun t => t.rtr.ram) = some none := by decide

/-- R-5: an overlapped image goes wholesale. -/
theorem test_rtrLoadRom_evicts :
    ((ran (.rtrLoadRom [0x02#8] 0xC001) platform).map fun t => t.rtr.roms) =
      some [{ base := 0xC001, bytes := [0x02#8] }] := by decide

/-- R-6: an image that only touches stays, and the set is listed by rising base. -/
theorem test_rtrLoadRom_keeps :
    ((ran (.rtrLoadRom [0x03#8, 0x03#8] 0xBFFE) platform).map fun t => t.rtr.roms.map RomBlock.base) =
      some [0xBFFE, 0xC000] := by decide

/-- R-8: the overlapped ACIA region is evicted. -/
theorem test_rtrMapIo_evicts :
    ((ran (.rtrMapIo 0x8001 0x8010 (.via 0)) platform).map fun t => t.rtr.ios.map IoRegion.start) =
      some [0x8001, 0x9000] := by decide

/-- R323: an inverted range. -/
theorem test_rtrMapIo_refuses_inverted :
    said (.rtrMapIo 0x9000 0x8FFF (.via 0)) platform = some (.error (.invalidRange 0x9000 0x8FFF)) := by decide

/-- R-21: the byte is zero, the region stays. -/
theorem test_rtrClearRam_zeroes :
    ((ran .rtrClearRam platform).map fun t => [ramByte t 0x0010, ramByte t 0x7FFF, ramByte t 0x8000]) =
      some [some 0x00#8, some 0x00#8, none] := by decide

/-! ## The hub -/

/-- R-9, R-16: a range that touches is admitted, in order of start. -/
theorem test_hubRegister_sorts :
    ((ran (.hubRegister (.via 0) 0x8002 0x8011 "x") platform).map fun t => t.hub.bindings.map Binding.name) =
      some ["acia", "x", "via"] := by decide

/-- R-10, R-13, R-14, R-15: the three errors, in the order tested. -/
theorem test_hubRegister_errors :
    said (.hubRegister (.via 0) 0x7FF0 0x9000 "big") platform =
      some (.error (.addressConflict 0x7FF0 0x9000 0x8000 0x8001)) ∧
    said (.hubRegister (.via 0) 0xA000 0xA00F "via") platform = some (.error (.duplicateName "via")) ∧
    said (.hubRegister (.via 0) 0x9000 0x8FFF "via") platform = some (.error (.invalidRange 0x9000 0x8FFF)) := by decide

/-- R-17: the named binding goes; an absent name changes nothing. -/
theorem test_hubUnregister_removes :
    ((ran (.hubUnregister "via") platform).map fun t => t.hub.bindings.map Binding.name) = some ["acia"] ∧
    ran (.hubUnregister "nosuch") platform = some platform := by decide

/-- R-20: both transmissions complete in one tick, the events in order of start address. -/
theorem test_hubTick_orders :
    ((ran (.hubTick 1040) { platform with
      acias := [{ aciaFresh 9600 (some 2) with txActive := true, txCount := 1040, tdr := 0x22#8 },
        { aciaFresh 9600 (some 1) with txActive := true, txCount := 1040, tdr := 0x11#8 }]
      hub := { bindings := [{ name := "a", start := 0x8000, stop := 0x8001, periph := .acia 1 },
        { name := "b", start := 0x8100, stop := 0x8101, periph := .acia 0 }] }
      env := { ready := [], hasData := [false, false], reads := [], asked := 0 } }).map State.events) =
      some [.portWrite 1 0x11#8, .portWrite 2 0x22#8] := by decide

/-- R-22: an ACIA with a byte waiting reports, an idle VIA does not. -/
theorem test_hubCollect_names :
    said .hubCollect { platform with acias := [{ ported with control := 0x80#8, rxq := [0x55#8] }] } =
      some (.names ["acia"]) := by decide

/-! ## The ACIA -/

/-- A-1: no port, a ready port, a port that is not ready. -/
theorem test_aciaStatusR_ports :
    said (.aciaStatusR 0) (withAcia (aciaFresh 9600 none)) = some (.byte 0x02#8) ∧
    said (.aciaStatusR 0) { withAcia ported with env := { ready := [true], hasData := [], reads := [], asked := 0 } } =
      some (.byte 0x0E#8) ∧
    said (.aciaStatusR 0) { withAcia ported with env := { ready := [false], hasData := [], reads := [], asked := 0 } } =
      some (.byte 0x02#8) := by decide

/-- P4: IRQ, OVRN, CTS, DCD, TDRE, RDRF. -/
theorem test_aciaStatusR_flags :
    said (.aciaStatusR 0) { withAcia { ported with control := 0x80#8, rxq := [0x69#8], ovrn := true } with
      env := { ready := [true], hasData := [], reads := [], asked := 0 } } = some (.byte 0xAF#8) := by decide

/-- A-2: `cyclesPerBit` at 9600 for divide by 1, 16 and 64. -/
theorem test_aciaCtrlW_divides :
    [0x80#8, 0x11#8, 0x16#8].map (fun v => (aciaOf (.aciaCtrlW 0 v) ported).map fun a => (a.control, a.cyclesPerBit)) =
      [some (0x80#8, 104), some (0x11#8, 1666), some (0x16#8, 6666)] := by decide

/-- A-3: a master reset whatever bits 7 to 2 are. -/
theorem test_aciaCtrlW_master_reset :
    aciaOf (.aciaCtrlW 0 0xFF#8) { ported with control := 0x95#8, cyclesPerBit := 1666, ovrn := true } = some ported := by decide

/-- A-9: the oldest byte first; OVRN stays. -/
theorem test_aciaRdrR_dequeues :
    said (.aciaRdrR 0) (withAcia { ported with rxq := [1#8, 2#8], ovrn := true }) = some (.byte 1#8) ∧
    ((aciaOf (.aciaRdrR 0) { ported with rxq := [1#8, 2#8], ovrn := true }).map fun a => (a.rxq, a.rdr, a.ovrn)) =
      some ([2#8], 1#8, true) := by decide

/-- T7: with the queue empty the last byte comes again. -/
theorem test_aciaRdrR_empty :
    said (.aciaRdrR 0) (withAcia { ported with rdr := 0x31#8 }) = some (.byte 0x31#8) := by decide

/-- T6: `txCount` is 1040 at divide by 1. -/
theorem test_aciaTdrW_starts :
    ((aciaOf (.aciaTdrW 0 0x41#8) ported).map fun a => (a.tdr, a.txActive, a.txCount)) = some (0x41#8, true, 1040) := by decide

/-- A-4: ignored while a transmission is in flight. -/
theorem test_aciaTdrW_busy :
    ((aciaOf (.aciaTdrW 0 0x42#8) { ported with tdr := 0x41#8, txActive := true, txCount := 9 }).map fun a =>
      (a.tdr, a.txCount)) = some (0x41#8, 9) := by decide

/-- A-15. -/
theorem test_aciaUndefR_reads_ones :
    said (.aciaUndefR 0 0xFFFF#16) (withAcia ported) = some (.byte 0xFF#8) := by decide

/-- A-15: not a master reset. -/
theorem test_aciaUndefW_drops :
    aciaOf (.aciaUndefW 0 2#16 0x03#8) { ported with ovrn := true } = some { ported with ovrn := true } := by decide

/-- T6: not at 1039 cycles, at 1040. -/
theorem test_aciaTick_transmits :
    [1039, 1040].map (fun c => (ran (.aciaTick 0 c) (withAcia { aciaFresh 9600 (some 5) with
        tdr := 0x41#8, txActive := true, txCount := 1040, rxActive := true, rxCount := 5000 })).map fun t =>
        (t.events, t.acias.map Acia.txCount)) =
      [some ([], [1]), some ([.portWrite 5 0x41#8], [0])] := by decide

/-- T7: the second reception completes with the first byte unread; then the port is polled. -/
theorem test_aciaTick_overruns :
    ((ran (.aciaTick 0 1) { withAcia { ported with rxq := [0x31#8], rxShift := 0x32#8, rxActive := true, rxCount := 1 } with
        env := { ready := [], hasData := [true], reads := [some 0x33#8], asked := 0 } }).map fun t =>
        t.acias.map fun a => (a.rxq, a.ovrn, a.rxShift, a.rxCount)) = some [([0x31#8], true, 0x33#8, 1040)] := by decide

/-- A-10: nothing in flight; `BAUD` and port stay. -/
theorem test_aciaReset_resets :
    aciaOf (.aciaReset 0) { ported with txActive := true, txCount := 540, rxShift := 0x99#8, control := 0x11#8 } =
      some ported := by decide

/-- A-5, A-6: only bits 6 to 5 at `0b01` select the transmit interrupt. -/
theorem test_aciaIrq_selects :
    [0x20#8, 0x40#8, 0x60#8, 0x00#8].map (fun c => said (.aciaIrq 0) (withAcia { ported with control := c })) =
      [some (.bool true), some (.bool false), some (.bool false), some (.bool false)] := by decide

/-! ## The VIA -/

/-- V-14, V-15, R211 to R241: every plain register read, by its own value. -/
theorem test_viaReads_return_their_register :
    [Instr.viaOrbR 0, .viaOraR 0, .viaDdrbR 0, .viaDdraR 0, .viaT1chR 0, .viaT1llR 0, .viaT1lhR 0, .viaT2chR 0,
      .viaSrR 0, .viaAcrR 0, .viaPcrR 0, .viaOranhR 0].map (fun i => said i (withVia
        { viaFresh with orb := 1#8, ora := 2#8, ddrb := 3#8, ddra := 4#8, t1c := 0x0506#16, t1l := 0x0708#16,
                        t2c := 0x090A#16, sr := 11#8, acr := 12#8, pcr := 13#8 })) =
      [1#8, 2#8, 3#8, 4#8, 5#8, 8#8, 7#8, 9#8, 11#8, 12#8, 13#8, 2#8].map fun b => some (.byte b) := by decide

/-- V-17: the low byte; only the Timer 1 flag is cleared. -/
theorem test_viaT1clR_acknowledges :
    said (.viaT1clR 0) (withVia { viaFresh with t1c := 0x0506#16 }) = some (.byte 6#8) ∧
    ((viaOf (.viaT1clR 0) { viaFresh with ifr := 0x60#7 }).map Via.ifr) = some 0x20#7 := by decide

/-- V-8, V-17: the low byte; only the Timer 2 flag is cleared. -/
theorem test_viaT2clR_acknowledges :
    said (.viaT2clR 0) (withVia { viaFresh with t2c := 0x0001#16 }) = some (.byte 1#8) ∧
    ((viaOf (.viaT2clR 0) { viaFresh with ifr := 0x60#7 }).map Via.ifr) = some 0x40#7 := by decide

/-- V-1. -/
theorem test_viaOrbW_masks :
    ((viaOf (.viaOrbW 0 0xA5#8) { viaFresh with orb := 0x0F#8, ddrb := 0xF0#8 }).map Via.orb) = some 0xAF#8 := by decide

/-- V-2. -/
theorem test_viaOraW_masks :
    ((viaOf (.viaOraW 0 0x00#8) { viaFresh with ora := 0x0F#8, ddra := 0xF0#8 }).map Via.ora) = some 0x0F#8 := by decide

/-- V-3. -/
theorem test_viaOranhW_masks :
    ((viaOf (.viaOranhW 0 0x12#8) { viaFresh with ddra := 0xFF#8 }).map Via.ora) = some 0x12#8 := by decide

/-- V-15, R216, R218: the register written and no other. -/
theorem test_viaPlainWrites_store :
    [Instr.viaDdrbW 0 0xF1#8, .viaDdraW 0 0xF2#8, .viaSrW 0 0xAA#8, .viaAcrW 0 0xBF#8, .viaPcrW 0 0xEE#8].map
        (fun i => viaOf i viaFresh) =
      [some { viaFresh with ddrb := 0xF1#8 }, some { viaFresh with ddra := 0xF2#8 }, some { viaFresh with sr := 0xAA#8 },
        some { viaFresh with acr := 0xBF#8 }, some { viaFresh with pcr := 0xEE#8 }] := by decide

/-- T9, R220: the latch, not the counter. -/
theorem test_viaT1clW_latches :
    ((viaOf (.viaT1clW 0 0x10#8) { viaFresh with t1l := 0x1234#16, t1c := 0x5678#16 }).map fun v => (v.t1l, v.t1c)) =
      some (0x1210#16, 0x5678#16) := by decide

/-- R224. -/
theorem test_viaT1llW_latches :
    ((viaOf (.viaT1llW 0 0x20#8) { viaFresh with t1l := 0x1234#16, t1c := 0x5678#16 }).map fun v => (v.t1l, v.t1c)) =
      some (0x1220#16, 0x5678#16) := by decide

/-- V-16: the counter is loaded and the flag cleared. -/
theorem test_viaT1chW_restarts :
    viaOf (.viaT1chW 0 0x00#8) { viaFresh with t1l := 0x0010#16, ifr := 0x60#7 } =
      some { viaFresh with t1l := 0x0010#16, t1c := 0x0010#16, t1run := true, ifr := 0x20#7 } := by decide

/-- V-6. -/
theorem test_viaT1lhW_restarts :
    viaOf (.viaT1lhW 0 0x01#8) { viaFresh with t1l := 0x0020#16, ifr := 0x40#7 } =
      some { viaFresh with t1l := 0x0120#16, t1c := 0x0120#16, t1run := true } := by decide

/-- V-8. -/
theorem test_viaT2clW_writes_the_counter :
    ((viaOf (.viaT2clW 0 0x05#8) { viaFresh with t2c := 0x0100#16, t2run := true }).map Via.t2c) = some 0x0105#16 := by decide

/-- V-7. -/
theorem test_viaT2chW_starts :
    viaOf (.viaT2chW 0 0x01#8) { viaFresh with t2c := 0x0020#16, ifr := 0x60#7 } =
      some { viaFresh with t2c := 0x0120#16, t2run := true, ifr := 0x40#7 } := by decide

/-- V-4: bit 7 only with an enabled flag. -/
theorem test_viaIfrR_synthesizes :
    said (.viaIfrR 0) (withVia { viaFresh with ifr := 0x40#7 }) = some (.byte 0x40#8) ∧
    said (.viaIfrR 0) (withVia { viaFresh with ifr := 0x40#7, ier := 0x40#7 }) = some (.byte 0xC0#8) := by decide

/-- V-9: bit 7 of the written byte is ignored. -/
theorem test_viaIfrW_clears :
    [0x40#8, 0x80#8, 0xFF#8].map (fun d => (viaOf (.viaIfrW 0 d) { viaFresh with ifr := 0x60#7 }).map Via.ifr) =
      [some 0x20#7, some 0x60#7, some 0x00#7] := by decide

/-- V-10: the parameter `IER_READ_BIT7`. -/
theorem test_viaIerR_reads_bit_seven :
    said (.viaIerR 0) (withVia viaFresh) = some (.byte 0x80#8) ∧
    said (.viaIerR 0) { withVia viaFresh with params := { defaultParams with ierReadBit7 := false } } =
      some (.byte 0x00#8) := by decide

/-- V-10. -/
theorem test_viaIerW_sets_and_clears :
    [0xA0#8, 0x40#8, 0x80#8, 0x7F#8].map (fun d => (viaOf (.viaIerW 0 d) { viaFresh with ier := 0x40#7 }).map Via.ier) =
      [some 0x60#7, some 0x00#7, some 0x40#7, some 0x00#7] := by decide

/-- V-12. -/
theorem test_viaUndefR_reads_ones :
    said (.viaUndefR 0 0x10#16) (withVia viaFresh) = some (.byte 0xFF#8) := by decide

/-- V-12. -/
theorem test_viaUndefW_drops :
    viaOf (.viaUndefW 0 0x10#16 0xFF#8) { viaFresh with ddrb := 0xFF#8 } = some { viaFresh with ddrb := 0xFF#8 } := by decide

/-- V-4, V-7: Timer 1 stops at the expiry; Timer 2's overshoot is discarded. -/
theorem test_viaTick_one_shot :
    [15, 16].map (fun c => (viaOf (.viaTick 0 c)
        { viaFresh with t1c := 16#16, t1l := 16#16, t1run := true, t2c := 16#16, t2run := true }).map fun v =>
        (v.t1c, v.t1run, v.t2c, v.t2run, v.ifr)) =
      [some (1#16, true, 1#16, true, 0#7), some (0#16, false, 0#16, false, 0x60#7)] := by decide

/-- V-5: one flag and one reload, the timer runs on. -/
theorem test_viaTick_continuous :
    ((viaOf (.viaTick 0 100) { viaFresh with acr := 0x40#8, t1c := 16#16, t1l := 0x0120#16, t1run := true }).map fun v =>
      (v.t1c, v.t1run, v.ifr)) = some (0x0120#16, true, 0x40#7) := by decide

/-- V-18, R249. -/
theorem test_viaReset_clears :
    viaOf (.viaReset 0) { viaFresh with orb := 1#8, ddra := 2#8, t1c := 3#16, t1run := true, acr := 4#8, ier := 5#7 } =
      some viaFresh := by decide

/-- V-4, V-17. -/
theorem test_viaIrq_needs_flag_and_enable :
    [(0x40#7, 0x40#7), (0x40#7, 0x20#7), (0x00#7, 0x7F#7)].map (fun p => said (.viaIrq 0)
        (withVia { viaFresh with ifr := p.1, ier := p.2 })) =
      [some (.bool true), some (.bool false), some (.bool false)] := by decide

/-! ## The aggregator -/

/-- T10: the edge event only when the set was empty. -/
theorem test_aggTrigIrq_edges :
    ((ran (.aggTrigIrq (.other "a")) State.reset).map State.events) = some [.cpuTriggerIrq] ∧
    ((ran (.aggTrigIrq (.other "b")) { State.reset with agg := { irq := [.other "a"], nmi := [] } }).map State.events) =
      some [] := by decide

/-- G-1, G-6. -/
theorem test_aggTrigNmi_edges :
    ((ran (.aggTrigNmi .debug) { State.reset with agg := { irq := [.debug], nmi := [] } }).map fun t =>
      (t.agg, t.events)) = some ({ irq := [.debug], nmi := [.debug] }, [.cpuTriggerNmi]) ∧
    ((ran (.aggTrigNmi .debug) { State.reset with agg := { irq := [], nmi := [.debug] } }).map fun t =>
      (t.agg, t.events)) = some ({ irq := [], nmi := [.debug] }, []) := by decide

/-- T10: the clear event only on the transition to empty; none on an empty set (G-7). -/
theorem test_aggClrIrq_edges :
    [[Source.debug], [.debug, .other "a"], []].map (fun q => (ran (.aggClrIrq .debug)
        { State.reset with agg := { irq := q, nmi := [] } }).map State.events) =
      [some [.cpuClearIrq], some [], some []] := by decide

/-- G-1. -/
theorem test_aggClrNmi_is_silent :
    ((ran (.aggClrNmi .debug) { State.reset with agg := { irq := [], nmi := [.debug] } }).map fun t =>
      (t.agg.nmi, t.events)) = some ([], []) := by decide

/-- G-2, G-7: reconciled, the manual source stays, a repeated name counts once. -/
theorem test_aggUpdate_adds_and_removes :
    ((ran (.aggUpdate ["via"]) { State.reset with agg := { irq := [.peripheral "acia", .debug], nmi := [] } }).map
      fun t => (t.agg.irq, t.events)) = some ([.peripheral "via", .debug], []) := by decide

/-- G-3, G-5: both edges. -/
theorem test_aggUpdate_edges :
    ((ran (.aggUpdate ["a", "a"]) State.reset).map fun t => (t.agg.irq, t.events)) =
      some ([.peripheral "a"], [.cpuTriggerIrq]) ∧
    ((ran (.aggUpdate []) { State.reset with agg := { irq := [.peripheral "x"], nmi := [] } }).map fun t =>
      (t.agg.irq, t.events)) = some ([], [.cpuClearIrq]) := by decide

/-- G-4. -/
theorem test_aggReset_is_silent :
    ((ran .aggReset { State.reset with agg := { irq := [.debug], nmi := [.debug] } }).map fun t => (t.agg, t.events)) =
      some ({ irq := [], nmi := [] }, []) := by decide

/-- T10. -/
theorem test_aggIrqPend_reads :
    said .aggIrqPend { State.reset with agg := { irq := [.debug], nmi := [] } } = some (.bool true) ∧
    said .aggIrqPend State.reset = some (.bool false) := by decide

/-- G-1, G-6. -/
theorem test_aggNmiPend_reads :
    said .aggNmiPend { State.reset with agg := { irq := [.debug], nmi := [] } } = some (.bool false) ∧
    said .aggNmiPend { State.reset with agg := { irq := [], nmi := [.debug] } } = some (.bool true) := by decide

/-! ## The composite operations -/

/-- S-1: a step of 0 cycles serves the access and does nothing else. -/
theorem test_sysStep_halts :
    ((ran (.sysStep [.write 0x8001 0x41, .read 0xC000] 0) platform).map fun t =>
      (t.acias.map Acia.txCount, t.reply)) = some ([1040], .halted [0xEA#8]) := by decide

/-- S-2: the transmit interrupt is reported at the end of the step. -/
theorem test_sysStep_runs :
    ((ran (.sysStep [.write 0x8000 0x20] 2) { platform with
        acias := [aciaFresh 9600 none] }).map fun t => (t.agg.irq, t.events, t.reply)) =
      some ([.peripheral "acia"], [.cpuTriggerIrq], .ran 2 []) := by decide

/-- S-5, R372: both chips reset, sets emptied, one event. -/
theorem test_sysReset_resets :
    ((ran .sysReset { platform with
        acias := [{ ported with ovrn := true }], vias := [{ viaFresh with ora := 9#8 }]
        agg := { irq := [.debug], nmi := [.debug] } }).map fun t => (t.acias, t.vias, t.agg, t.events)) =
      some ([ported], [viaFresh], { irq := [], nmi := [] }, [.cpuReset]) := by decide

/-- R306. -/
theorem test_sysAttach_maps_both_halves :
    ((ran (.sysAttach "b" 0x8100 0x8101 (.acia 0)) platform).map fun t =>
      (t.hub.bindings.map Binding.name, t.rtr.ios.map IoRegion.start)) =
      some (["acia", "b", "via"], [0x8000, 0x8100, 0x9000]) := by decide

/-- S-3: nothing changes. -/
theorem test_sysAttach_refuses :
    ran (.sysAttach "b" 0x8001 0x8010 (.via 0)) platform =
      some { platform with reply := .error (.addressConflict 0x8001 0x8010 0x8000 0x8001) } := by decide

/-- S-4: binding and region go, the VIA keeps its state; an absent name is a no-op. -/
theorem test_sysDetach_unmaps_both_halves :
    ((ran (.sysDetach "via") { platform with vias := [{ viaFresh with orb := 0x77#8 }] }).map fun t =>
      (t.hub.bindings.map Binding.name, t.rtr.ios.map IoRegion.start, t.vias.map Via.orb)) =
      some (["acia"], [0x8000], [0x77#8]) ∧
    ran (.sysDetach "nosuch") platform = some platform := by decide

/-! ## The step -/

/-- R346. -/
theorem test_step_idles :
    step platform = .next platform := rfl

/-- R74: the first request runs and is gone. -/
theorem test_step_runs_first_request :
    step { State.reset with requests := [{ fmt := .b, word := 0x0800000#32 }, { fmt := .m, word := 0x25#32 }] } =
      .next { State.reset with requests := [{ fmt := .m, word := 0x25#32 }], reply := .byte 0xFF#8 } := rfl

/-- R117. -/
theorem test_step_refuses :
    step { State.reset with requests := [{ fmt := .m, word := 0x99#32 }] } =
      .refused (.undecodable (.unknownSelector 0x99#8)) := rfl

/-- Log entry 4. -/
theorem test_missing_instance_is_refused :
    exec (.viaOrbR 7) State.reset = .refused (.noSuchPeripheral (.via 7)) := rfl

/-- The row's word decodes and runs as the first operation after construction. -/
theorem test_tableWord :
    decodeTableWord 8 0x25 = some .aggReset ∧ decodeTableWord 26 0x2000D00 = some (.viaIfrR 0) ∧
    decodeTableWord 25 0x1800003 = some (.busWrite 0x8000 3) ∧ decodeTableWord 32 0x2000D00 = some (.viaIfrR 0) := by decide

/-! ## Witnesses: for each obligation with hypotheses, a state and operands that meet all of them, and where it has
several clauses over one input, one for each at a boundary of its range -/

/-- A platform whose second access comes from the list of requests. -/
def requested : State :=
  { platform with requests := [{ fmt := .b, word := 0x1001099#32 }, { fmt := .m, word := 0x34#32 }] }

/-- A platform with interrupts pending, a queue that has overrun, and answers of the port in hand. -/
def busy : State :=
  { platform with
    acias := [{ ported with control := 0x80#8, rxq := [0x48#8], rxShift := 0x69#8, ovrn := true, txActive := true
                            txCount := 540, rxActive := true, rxCount := 4, tdr := 0x41#8 }]
    vias := [{ viaFresh with ifr := 0x40#7, ier := 0x40#7 }]
    agg := { irq := [.peripheral "acia", .debug], nmi := [.debug] }
    env := { ready := [true], hasData := [true], reads := [some 0x21#8], asked := 0 } }

/-- `DecodeInvertsEncode`. Boundary operands of every field. -/
theorem witness_decodeInvertsEncode :
    ∀ i ∈ [Instr.busRead 0xFFFF, .busWrite 0xFFFF 0xFF, .busWrite 0 0, .aciaUndefR 0 2#16, .aciaUndefW 0 0xFFFF#16 0xFF#8,
      .viaUndefR 0 16#16, .viaUndefW 0 0xFFFF#16 0xFF#8, .viaIerW 9 0xFF#8, .sysDetach "via"], i.wf = true := by decide

/-- `DecodedOperationsAreWellFormed`. The first offsets of the catch-all rows. -/
theorem witness_decodedOperationsAreWellFormed :
    decode { fmt := .p, word := 0x0000200#32 } = .ok (.aciaUndefR 0 2#16) ∧
    decode { fmt := .p, word := 0x3001000#32 } = .ok (.viaUndefW 0 16#16 0#8) := ⟨rfl, rfl⟩

/-- `WordsWithoutOperationAreRefused`. The last and first words of each clause, and a state that presents such a word. -/
theorem witness_wordsWithoutOperationAreRefused :
    2 ^ 8 ≤ (0x100#32).toNat ∧ ¬ 2 ^ 25 ≤ (0x1FFFFFF#32).toNat ∧ 2 ^ 25 ≤ (0x2000000#32).toNat ∧
    ¬ 2 ^ 26 ≤ (0x3FFFFFF#32).toNat ∧ 2 ^ 26 ≤ (0x4000000#32).toNat ∧
    decode { fmt := .m, word := 0x34#32 } = .error (.unknownSelector 0x34#8) ∧
    { requested with requests := requested.requests.tail }.requests = { fmt := .m, word := 0x34#32 } :: [] := ⟨by decide, by decide, by decide, by decide, by decide, rfl, rfl⟩

/-- `StepRunsThePresentedOperation`. A state for each of the three clauses. -/
theorem witness_stepRunsThePresentedOperation :
    requested.requests = { fmt := .b, word := 0x1001099#32 } :: requested.requests.tail ∧
    decode { fmt := .b, word := 0x1001099#32 } = .ok (.busWrite 0x0010 0x99) ∧
    decodeTableWord 8 0x31 = some .sysReset ∧ platform.requests = [] := ⟨rfl, rfl, rfl, rfl⟩

/-- `EveryStepKeepsWellFormedness`. A step that stores. -/
theorem witness_everyStepKeepsWellFormedness :
    requested.wf ∧ step requested = .next { requested with
      requests := requested.requests.tail
      rtr := { requested.rtr with ram := some { base := 0, size := 0x8000, bytes := [(0x0010, 0x99#8)] } } } := ⟨by decide, rfl⟩

/-- `AttachAndDetachKeepTheHalvesTogether`. A detach and an attach on a state whose halves agree. -/
theorem witness_attachAndDetachKeepTheHalvesTogether :
    platform.wf ∧ halvesAgree platform ∧ (ran (.sysDetach "via") platform).isSome = true ∧
    (ran (.sysAttach "b" 0x8100 0x8101 (.acia 0)) platform).isSome = true := by decide

/-- `RamChangesOnlyByStoresAndItsManagement`. Operations that are not in the class, with a next state. -/
theorem witness_ramChangesOnlyByStoresAndItsManagement :
    ∀ i ∈ [Instr.busRead 0x8001, .hubTick 4, .sysReset, .rtrLoadRom [1#8] 0x0010,
        .sysStep [.read 0x8001, .read 0x0010] 4, .sysStep [] 0], mayChangeRam i = false ∧ (ran i busy).isSome = true := by decide

/-- `MapChangesOnlyByManagement`. Operations outside each class, with a next state. -/
theorem witness_mapChangesOnlyByManagement :
    ∀ i ∈ [Instr.busWrite 0x9000 1, .sysStep [.write 0x10 1] 4, .sysReset, .aggUpdate []],
      mayChangeRoms i = false ∧ mayChangeIos i = false ∧ mayChangeHub i = false ∧ (ran i busy).isSome = true := by decide

/-- `ConstructionParametersNeverChange`. Operations with a next state. -/
theorem witness_constructionParametersNeverChange :
    ∀ i ∈ [Instr.aciaReset 0, .sysReset, .sysStep [] 1, .viaReset 0], (ran i busy).isSome = true := by decide

/-- `SourceSetsChangeOnlyByInterruptOperations`. Operations outside each class, with a next state. -/
theorem witness_sourceSetsChangeOnlyByInterruptOperations :
    ∀ i ∈ [Instr.hubTick 4, .busRead 0x8001, .aggTrigNmi .debug], mayChangeIrqSet i = false ∧
      (ran i busy).isSome = true ∧ (mayChangeNmiSet (.sysStep [] 4) = false ∧ (ran (.sysStep [] 4) busy).isSome = true) := by decide

/-- `InstancesChangeOnlyByOperationsThatReachThem`. Another instance's operation, another chip's, and a management operation. -/
theorem witness_instancesChangeOnlyByOperationsThatReachThem :
    ∀ i ∈ [Instr.aciaStatusR 0, .aciaIrq 0, .rtrClearRam], mayChangeAcia 0 i = false ∧ mayChangeVia 0 i = false ∧
      (ran i busy).isSome = true ∧ mayChangeVia 1 (.viaReset 0) = false ∧ (ran (.viaReset 0) busy).isSome = true ∧
      mayChangeAcia 1 (.aciaReset 0) = false ∧ (ran (.aciaReset 0) busy).isSome = true := by decide

/-- `InterruptEdgesBalanceTheIrqSet`. An update that drops the last source. -/
theorem witness_interruptEdgesBalanceTheIrqSet :
    (ran (.aggUpdate []) { platform with agg := { irq := [.peripheral "acia"], nmi := [] } }).isSome = true ∧
    Instr.aggUpdate [] ≠ .aggReset ∧ Instr.aggUpdate [] ≠ .sysReset := by decide

/-- `OverrunStaysUntilReset`. Reads, writes without the command, and writes that carry it to RAM, to the data register, to
the other chip and to ROM; and a system reset with the ACIA not bound. -/
theorem witness_overrunStaysUntilReset :
    (busy.acias[0]?.map Acia.ovrn) = some true ∧
    (∀ i ∈ [Instr.busRead 0x8001, .aciaCtrlW 0 0x12#8, .busWrite 0x8000 0x12, .busWrite 0x0010 0x03,
        .busWrite 0x8001 0x03, .busWrite 0x9000 0x03, .busWrite 0xC000 0x03,
        .sysStep [.write 0x8000 0x11, .write 0x0010 0x03, .read 0x8000] 9],
      mayResetAcia busy 0 i = false ∧ (ran i busy).isSome = true) ∧
    mayResetAcia { busy with hub := { bindings := [] } } 0 .sysReset = false := by decide

/-- R370: what `OverrunStaysUntilReset` leaves out does reset the ACIA: the command at offset 0, by a bus write and by a
step's, and the system reset of a bound ACIA. -/
theorem test_mayResetAcia_resets :
    ∀ i ∈ [Instr.busWrite 0x18000 0x103, .sysStep [.write 0x8000 0xFF] 0, .sysReset],
      mayResetAcia busy 0 i = true ∧ ((ran i busy).map fun t => t.acias.map Acia.ovrn) = some [false] := by decide

/-- `BusReadOfMemoryReturnsTheByte`. The last byte of the image, an unshadowed RAM byte, and an unmapped address. -/
theorem witness_busReadOfMemoryReturnsTheByte :
    platform.wf ∧ (0xC000 ≤ 0xC001 % 65536 ∧ [0xEA#8, 0x4C#8][0xC001 % 65536 - 0xC000]? = some 0x4C#8) ∧
    { base := 0xC000, bytes := [0xEA#8, 0x4C#8] } ∈ platform.rtr.roms ∧
    ∀ a ∈ [0x10010, 0x7FFF, 0x8002, 0xC002, 0xFFFF], ¬ romCovered platform (a % 65536) ∧ ¬ ioCovered platform (a % 65536) := by decide

/-- `BusReadOfPeripheralIsItsRegisterRead`. Both ends of both regions. -/
theorem witness_busReadOfPeripheralIsItsRegisterRead :
    platform.wf ∧ ∀ p ∈ [(0x8000, 0x8000, 0x8001, PeriphRef.acia 0), (0x18001, 0x8000, 0x8001, .acia 0),
        (0x9000, 0x9000, 0x900F, .via 0), (0x900F, 0x9000, 0x900F, .via 0)],
      ¬ romCovered platform (p.1 % 65536) ∧
      { start := p.2.1, stop := p.2.2.1, periph := p.2.2.2 } ∈ platform.rtr.ios ∧
      p.2.1 ≤ p.1 % 65536 ∧ p.1 % 65536 ≤ p.2.2.1 := by decide

/-- `BusWriteOfPeripheralIsItsRegisterWrite`. Both ends of both regions. -/
theorem witness_busWriteOfPeripheralIsItsRegisterWrite :
    platform.wf ∧ ∀ p ∈ [(0x8000, 0x8000, 0x8001, PeriphRef.acia 0), (0x18001, 0x8000, 0x8001, .acia 0),
        (0x9000, 0x9000, 0x900F, .via 0), (0x900F, 0x9000, 0x900F, .via 0)],
      ¬ romCovered platform (p.1 % 65536) ∧
      { start := p.2.1, stop := p.2.2.1, periph := p.2.2.2 } ∈ platform.rtr.ios ∧
      p.2.1 ≤ p.1 % 65536 ∧ p.1 % 65536 ≤ p.2.2.1 := by decide

/-- `BusWriteOfMemoryStoresTheByte`. Both ends of the image, of an unmapped hole and of the RAM. -/
theorem witness_busWriteOfMemoryStoresTheByte :
    platform.wf ∧ (∀ a ∈ [0xC000, 0xC001], romCovered platform (a % 65536)) ∧
    (∀ a ∈ [0x8002, 0x8FFF, 0xC002, 0xFFFF], ¬ romCovered platform (a % 65536) ∧ ¬ ioCovered platform (a % 65536) ∧
      ramByte platform (a % 65536) = none) ∧
    ∀ a ∈ [0x0000, 0x0010, 0x7FFF, 0x10000], ¬ romCovered platform (a % 65536) ∧ ¬ ioCovered platform (a % 65536) ∧
      ramByte platform (a % 65536) ≠ none := ⟨by decide, by decide, by decide, by decide⟩

/-- `BusReadHasOnlyTheListedSideEffects`. Offsets beside the listed ones. -/
theorem witness_busReadHasOnlyTheListedSideEffects :
    ∀ a ∈ [0x8000, 0x9003, 0x9005, 0x9007, 0x9009, 0x0010, 0xC000], (ran (.busRead a) busy).isSome = true ∧
      ∀ g ∈ busy.rtr.ios, g.start ≤ a % 65536 → a % 65536 ≤ g.stop →
        (g.periph = .acia 0 → a % 65536 - g.start ≠ 1) ∧
        (g.periph = .via 0 → a % 65536 - g.start ≠ 4 ∧ a % 65536 - g.start ≠ 8) := by decide

/-- `RamHoldsWhatIsWritten`. Both ends of the block. -/
theorem witness_ramHoldsWhatIsWritten :
    ∀ a ∈ [0x9010, 0x900F + 0x100], 0x9010 ≤ a ∧ a < 0x9010 + 0x100 ∧ a < 65536 ∧ ¬ romCovered platform a ∧
      ¬ ioCovered platform a := by decide

/-- `RomIgnoresWrites`. The last address. -/
theorem witness_romIgnoresWrites :
    (0xFFFF : Nat) < 65536 := by decide

/-- `LoadRomReplacesOverlappingImages`. A one-byte image. -/
theorem witness_loadRomReplacesOverlappingImages :
    [0xEA#8] ≠ [] := by decide

/-- `MapIoReplacesOverlappingRegions`. A one-address range, and an inverted one. -/
theorem witness_mapIoReplacesOverlappingRegions :
    periphExists platform (.acia 0) = true ∧ (0x8001 ≤ 0x8001) ∧ (0x8000 < 0x8001) := by decide

/-- `RegisterInsertsInOrder`. A range that touches both neighbours. -/
theorem witness_registerInsertsInOrder :
    periphExists platform (.via 0) = true ∧ 0x8002 ≤ 0x8FFF ∧ hubWf platform.hub ∧
    ∀ b ∈ platform.hub.bindings, b.name ≠ "x" ∧ ¬ rangesMeet b.start b.stop 0x8002 0x8FFF := by decide

/-- `RegisterErrorsChangeNothing`. An inverted range, a used name, and a range that shares one address. -/
theorem witness_registerErrorsChangeNothing :
    periphExists platform (.via 0) = true ∧ 0x8FFF < 0x9000 ∧ (0xA000 ≤ 0xA000 ∧ ∃ b ∈ platform.hub.bindings, b.name = "via") ∧
    (0x8001 ≤ 0x8002 ∧ (∀ b ∈ platform.hub.bindings, b.name ≠ "x") ∧ hubWf platform.hub ∧
      ∃ c ∈ platform.hub.bindings, rangesMeet c.start c.stop 0x8001 0x8002 ∧
        ∀ b ∈ platform.hub.bindings, rangesMeet b.start b.stop 0x8001 0x8002 → c.start ≤ b.start) := by decide

/-- `UnregisterRemovesTheName`. The last clause: a name that no binding has. -/
theorem witness_unregisterRemovesTheName :
    ∀ b ∈ platform.hub.bindings, b.name ≠ "nosuch" := by decide

/-- `HubTickTicksEveryBindingInOrder`. Two bindings. -/
theorem witness_hubTickTicksEveryBindingInOrder :
    ∀ b ∈ platform.hub.bindings, periphExists platform b.periph = true := by decide

/-- `HubCollectNamesTheReporting`. Two bindings, both reporting. -/
theorem witness_hubCollectNamesTheReporting :
    busy.wf ∧ said .hubCollect busy = some (.names ["acia", "via"]) := by decide

/-- `StatusReadShowsTheFlags`. A bound port with an answer in hand, and no port. -/
theorem witness_statusReadShowsTheFlags :
    (busy.acias[0]?).isSome = true ∧ (busy.acias[0]?.bind Acia.port) ≠ none ∧ busy.env.ready = true :: [] ∧
    (State.reset.acias[0]?).isSome = true ∧ (State.reset.acias[0]?.bind Acia.port) = none := by decide

/-- `ControlWriteSetsTheBitTimeOrResets`. A byte for each divide select, and the master reset. -/
theorem witness_controlWriteSetsTheBitTimeOrResets :
    (busy.acias[0]?).isSome = true ∧ (0xFC#8).toNat % 4 = 0 ∧ (0x11#8).toNat % 4 = 1 ∧ (0x02#8).toNat % 4 = 2 ∧
    (0xFF#8).toNat % 4 = 3 := by decide

/-- `DataReadDequeues`. A queue of one byte, and an empty one. -/
theorem witness_dataReadDequeues :
    (busy.acias[0]?.map Acia.rxq) = some (0x48#8 :: []) ∧ (platform.acias[0]?.map Acia.rxq) = some [] := by decide

/-- `DataWriteStartsOrIsIgnored`. A transmitter in flight, and an idle one. -/
theorem witness_dataWriteStartsOrIsIgnored :
    (busy.acias[0]?.map Acia.txActive) = some true ∧ (platform.acias[0]?.map Acia.txActive) = some false := by decide

/-- `UndefinedOffsetsReadOnesAndDropWrites`. Both chips. -/
theorem witness_undefinedOffsetsReadOnesAndDropWrites :
    (platform.acias[0]?).isSome = true ∧ (platform.vias[0]?).isSome = true := by decide

/-- `AciaReportsItsInterruptCondition`. An instance. -/
theorem witness_aciaReportsItsInterruptCondition :
    (busy.acias[0]?).isSome = true := by decide

/-- `TickAdvancesTheTransmitter`. Idle; one cycle short of the expiry; and the expiry. -/
theorem witness_tickAdvancesTheTransmitter :
    (platform.acias[0]?.map Acia.txActive) = some false ∧
    (busy.acias[0]?.map fun a => (a.txActive, a.txCount)) = some (true, 540) ∧ 539 < 540 ∧ 540 ≤ 540 := by decide

/-- `TickAdvancesTheReceiver`. One cycle short, the expiry, idle; no port; each answer of a port, from the list and past
its end. -/
theorem witness_tickAdvancesTheReceiver :
    (busy.acias[0]?.map fun a => (a.rxActive, a.rxCount, a.port)) = some (true, 4, some 0) ∧ 3 < 4 ∧ 4 ≤ 4 ∧
    (State.reset.acias[0]?.map fun a => (a.rxActive, a.port)) = some (false, none) ∧
    (platform.acias[0]?.map fun a => (a.rxActive, a.port)) = some (false, some 0) ∧
    (busy.env.hasData = true :: [] ∧ busy.env.reads = some 0x21#8 :: []) ∧
    ({ busy.env with hasData := [false] }).hasData = false :: [] ∧
    ({ busy.env with reads := [none] }).reads = none :: [] ∧
    ({ busy.env with reads := [] }).reads = [] ∧ platform.env.hasData = [] := by decide

/-- `WrittenByteReachesThePortAfterTenBitTimes`. Three ticks that end one cycle short of ten bit times, and the last. -/
theorem witness_writtenByteReachesThePortAfterTenBitTimes :
    (platform.acias[0]?.map fun a => (a.txActive, a.port, a.cyclesPerBit)) = some (false, some 0, 104) ∧
    [4, 0, 1035].sum < 10 * 104 ∧ 10 * 104 ≤ [4, 0, 1035].sum + 1 := by decide

/-- `PlainRegisterReadsReturnTheRegister`. An instance with a flag and an enable set. -/
theorem witness_plainRegisterReadsReturnTheRegister :
    busy.vias[0]? = some { viaFresh with ifr := 0x40#7, ier := 0x40#7 } := by decide

/-- `CounterLowReadsAcknowledge`. An instance with a flag and an enable set. -/
theorem witness_counterLowReadsAcknowledge :
    busy.vias[0]? = some { viaFresh with ifr := 0x40#7, ier := 0x40#7 } := by decide

/-- `PortWritesAffectOnlyOutputBits`. An instance with a flag and an enable set. -/
theorem witness_portWritesAffectOnlyOutputBits :
    busy.vias[0]? = some { viaFresh with ifr := 0x40#7, ier := 0x40#7 } := by decide

/-- `PlainRegisterWritesStoreTheByte`. An instance with a flag and an enable set. -/
theorem witness_plainRegisterWritesStoreTheByte :
    busy.vias[0]? = some { viaFresh with ifr := 0x40#7, ier := 0x40#7 } := by decide

/-- `Timer1WritesGoThroughTheLatch`. An instance with a flag and an enable set. -/
theorem witness_timer1WritesGoThroughTheLatch :
    busy.vias[0]? = some { viaFresh with ifr := 0x40#7, ier := 0x40#7 } := by decide

/-- `Timer2WritesGoToTheCounter`. An instance with a flag and an enable set. -/
theorem witness_timer2WritesGoToTheCounter :
    busy.vias[0]? = some { viaFresh with ifr := 0x40#7, ier := 0x40#7 } := by decide

/-- `FlagAndEnableReadsShowTheirBits`. An instance with a flag and an enable set. -/
theorem witness_flagAndEnableReadsShowTheirBits :
    busy.vias[0]? = some { viaFresh with ifr := 0x40#7, ier := 0x40#7 } := by decide

/-- `FlagWritesClearAndEnableWritesSetOrClear`. An instance with a flag and an enable set. -/
theorem witness_flagWritesClearAndEnableWritesSetOrClear :
    busy.vias[0]? = some { viaFresh with ifr := 0x40#7, ier := 0x40#7 } := by decide

/-- `ViaResetClearsEveryField`. An instance with a flag and an enable set. -/
theorem witness_viaResetClearsEveryField :
    busy.vias[0]? = some { viaFresh with ifr := 0x40#7, ier := 0x40#7 } := by decide

/-- `ViaTickCountsTheTimersDown`. Stopped; running and one cycle short; running and at the expiry, in both modes. -/
theorem witness_viaTickCountsTheTimersDown :
    (withVia viaFresh).vias[0]? = some viaFresh ∧ viaFresh.t1run = false ∧ viaFresh.t2run = false ∧
    (let v : Via := { viaFresh with t1c := 16#16, t1run := true, t2c := 16#16, t2run := true, acr := 0x40#8 };
      (withVia v).vias[0]? = some v ∧ 15 < v.t1c.toNat ∧ v.t1c.toNat ≤ 16 ∧ 15 < v.t2c.toNat ∧ v.t2c.toNat ≤ 16 ∧
      v.acr.getLsbD 6 = true ∧ viaFresh.acr.getLsbD 6 = false) := by decide

/-- `Timer1ExpiresAfterItsCount`. The largest count; one cycle short and at the expiry. -/
theorem witness_timer1ExpiresAfterItsCount :
    busy.vias[0]? = some { viaFresh with ifr := 0x40#7, ier := 0x40#7 } ∧ 65535 < 65536 ∧ 65534 < 65535 ∧ 65535 ≤ 65535 := by decide

/-- `StepLeavesTheLineAtTheReports`. A step of one cycle with an access. -/
theorem witness_stepLeavesTheLineAtTheReports :
    busy.wf ∧ 1 ≠ 0 ∧ (ran (.sysStep [.read 0x8001] 1) busy).isSome = true := by decide

/-- `SystemResetResetsWhatIsBound`. Two bindings. -/
theorem witness_systemResetResetsWhatIsBound :
    ∀ b ∈ busy.hub.bindings, periphExists busy b.periph = true := by decide

/-- `AttachRegistersThenMaps`. A registration that fails, and one that is admitted between two neighbours. -/
theorem witness_attachRegistersThenMaps :
    periphExists platform (.via 0) = true ∧
    exec (.hubRegister (.via 0) 0x8001 0x8010 "b") platform =
      .next { platform with reply := .error (.addressConflict 0x8001 0x8010 0x8000 0x8001) } ∧
    (said (.hubRegister (.via 0) 0x8002 0x8FFF "b") platform = some .unit ∧ 0x8002 ≤ 0x8FFF ∧
      ∀ b ∈ platform.hub.bindings, b.name ≠ "b" ∧ ¬ rangesMeet b.start b.stop 0x8002 0x8FFF) := ⟨by decide, rfl, by decide⟩

/-- `DetachRemovesBindingAndRegion`. A bound name, and one that is not. -/
theorem witness_detachRemovesBindingAndRegion :
    hubWf platform.hub ∧ (∃ b ∈ platform.hub.bindings, b.name = "via") ∧ ∀ b ∈ platform.hub.bindings, b.name ≠ "nosuch" := by decide

end Sys2Proof.Tests
end

section
/-! SUPPORT. What the operations on chips, bindings and the bus read can change, as one lemma about `exec`. -/

namespace Sys2Proof.Machine

/-- The operations that reach nothing but peripherals: the reads of the bus, the register accesses, ticks,
resets and reports of the two chips, the tick and the collection of the hub, and the two questions to the aggregator. -/
def reachesOnlyDevices : Instr → Bool
  | .busWrite _ _ | .rtrConfigRam _ _ | .rtrLoadRom _ _ | .rtrMapIo _ _ _ | .rtrClearRam
  | .hubRegister _ _ _ _ | .hubUnregister _
  | .aggTrigIrq _ | .aggTrigNmi _ | .aggClrIrq _ | .aggClrNmi _ | .aggUpdate _ | .aggReset
  | .sysStep _ _ | .sysReset | .sysAttach _ _ _ _ | .sysDetach _ => false
  | _ => true

/-- From `s` to `t` only the peripherals, the oracle's place, the events and the reply may differ. -/
def DevicesAndReplyOnly (s t : State) : Prop := ∃ u r, DevicesOnly s u ∧ t = { u with reply := r }

theorem finish_next {s t : State} {r : Reply} (h : finish s r = .next t) : t = { s with reply := r } := by
  simpa using h.symm

theorem finish_devices {s u t : State} {r : Reply} (hu : DevicesOnly s u) (h : finish u r = .next t) :
    DevicesAndReplyOnly s t := ⟨u, r, hu, finish_next h⟩

theorem viaReadOp_devices {i : Nat} {s t : State} {f : Via → Byte × Via} (h : viaReadOp i s f = .next t) :
    DevicesAndReplyOnly s t := by
  obtain ⟨v, -, ht⟩ := viaReadOp_next h
  exact ⟨_, _, setVia_devicesOnly i s _, ht⟩

theorem viaWriteOp_devices {i : Nat} {s t : State} {f : Via → Via} (h : viaWriteOp i s f = .next t) :
    DevicesAndReplyOnly s t := by
  obtain ⟨v, -, ht⟩ := viaWriteOp_next h
  exact ⟨_, _, setVia_devicesOnly i s _, ht⟩

/-- An ACIA put back with its construction parameters, and nothing else changed. -/
theorem setAcia_alone_devicesOnly {i : Nat} {s : State} {a b : Acia} (h : s.acias[i]? = some a)
    (hc : sameConstruction a b) : DevicesOnly s (setAcia i b s) := by
  simpa [setAcia] using setAcia_devicesOnly h hc s.env [] (by simp)

/-- The oracle's place alone may move. -/
theorem env_devicesOnly (s : State) (e : Env) : DevicesOnly s { s with env := e } :=
  { DevicesOnly.refl s with rest := rfl }

/-- A bus read changes what the peripheral it resolves to changes, and else nothing (R140). -/
theorem busReadAt_devicesOnly (addr : Nat) (s : State) : DevicesOnly s (busReadAt addr s).2 := by
  simp only [busReadAt]
  split
  case h_2 g _ => exact pRead_devicesOnly g.periph _ s
  all_goals exact .refl s

/-- A bus write changes what the peripheral it resolves to changes, or a byte of RAM, or nothing (R141). -/
theorem busWriteAt_cases (addr v : Nat) (s : State) :
    DevicesOnly s (busWriteAt addr v s) ∨ ∃ ram, busWriteAt addr v s = { s with rtr := { s.rtr with ram := ram } } := by
  simp only [busWriteAt]
  split
  · exact .inl (.refl s)
  · exact .inl (pWrite_devicesOnly _ _ _ s)
  · exact .inr ⟨_, rfl⟩
  · exact .inl (.refl s)

/-- An operation on one ACIA changes what the state it ends in changes. -/
theorem onAcia_finish_devices {i : Nat} {s t : State} {u : Acia → State} {r : Acia → Reply}
    (hu : ∀ a, s.acias[i]? = some a → DevicesOnly s (u a))
    (h : onAcia i s (fun a => finish (u a) (r a)) = .next t) : DevicesAndReplyOnly s t := by
  obtain ⟨a, ha, ht⟩ := onAcia_next h
  exact finish_devices (hu a ha) ht

/-- The operations on one VIA that leave it as it is. -/
theorem onVia_finish_devices {i : Nat} {s t : State} {r : Via → Reply}
    (h : onVia i s (fun v => finish s (r v)) = .next t) : DevicesAndReplyOnly s t := by
  obtain ⟨v, -, ht⟩ := onVia_next h
  exact finish_devices (.refl s) ht

/-- Every operation of the class changes nothing but peripherals, the oracle's place, the events and the reply. -/
theorem exec_devices {i : Instr} {s t : State} (hi : reachesOnlyDevices i = true) (h : exec i s = .next t) :
    DevicesAndReplyOnly s t := by
  cases i with
  | busWrite | rtrConfigRam | rtrLoadRom | rtrMapIo | rtrClearRam | hubRegister | hubUnregister
  | aggTrigIrq | aggTrigNmi | aggClrIrq | aggClrNmi | aggUpdate | aggReset
  | sysStep | sysReset | sysAttach | sysDetach => cases hi
  | busRead addr => exact finish_devices (busReadAt_devicesOnly addr s) h
  | aciaStatusR => exact onAcia_finish_devices (fun _ _ => env_devicesOnly s _) h
  | aciaCtrlW _ v =>
    exact onAcia_finish_devices (fun a ha => setAcia_alone_devicesOnly ha (aciaControlWrite_construction a v)) h
  | aciaRdrR =>
    exact onAcia_finish_devices (fun a ha => setAcia_alone_devicesOnly ha (aciaDataRead_construction a)) h
  | aciaTdrW _ v =>
    exact onAcia_finish_devices (fun a ha => setAcia_alone_devicesOnly ha (aciaDataWrite_construction a v)) h
  | aciaReset =>
    exact onAcia_finish_devices (u := fun a => setAcia _ (aciaResetState a) s)
      (fun _ ha => setAcia_alone_devicesOnly ha ⟨rfl, rfl⟩) h
  | aciaTick _ c => exact onAcia_finish_devices (fun _ ha => aciaTickAt_devicesOnly c ha) h
  | aciaUndefR | aciaUndefW | aciaIrq => exact onAcia_finish_devices (fun _ _ => .refl s) h
  | viaOrbR | viaOraR | viaDdrbR | viaDdraR | viaT1clR | viaT1chR | viaT1llR | viaT1lhR | viaT2clR | viaT2chR
  | viaSrR | viaAcrR | viaPcrR | viaIfrR | viaIerR | viaOranhR => exact viaReadOp_devices h
  | viaOrbW | viaOraW | viaDdrbW | viaDdraW | viaT1clW | viaT1chW | viaT1llW | viaT1lhW | viaT2clW | viaT2chW
  | viaSrW | viaAcrW | viaPcrW | viaIfrW | viaIerW | viaOranhW
  | viaTick | viaReset => exact viaWriteOp_devices h
  | viaUndefR | viaUndefW | viaIrq => exact onVia_finish_devices h
  | hubTick c => exact finish_devices (hubTickAll_devicesOnly c s) h
  | hubCollect | aggIrqPend | aggNmiPend => exact finish_devices (.refl s) h

/-! ## The management operations, by what they can end in -/

/-- `RTR.MAPIO` raises on an inverted range and else maps the region (R132). -/
theorem execRtrMapIo_next {start stop : Nat} {p : PeriphRef} {s t : State}
    (h : execRtrMapIo start stop p s = .next t) : periphExists s p = true ∧
      (stop < start ∧ t = { s with reply := .error (.invalidRange start stop) } ∨
       start ≤ stop ∧ t = { s with rtr := withIo start stop p s.rtr, reply := .unit }) := by
  obtain ⟨hp, h⟩ := onPeriph_next h
  refine ⟨hp, ?_⟩
  split at h
  · exact .inl ⟨‹_›, finish_next h⟩
  · exact .inr ⟨by omega, finish_next h⟩

/-- `HUB.REGISTER` raises the first error of the admission and else inserts the binding (R133). -/
theorem execHubRegister_next {p : PeriphRef} {start stop : Nat} {name : String} {s t : State}
    (h : execHubRegister p start stop name s = .next t) : periphExists s p = true ∧
      ((∃ e, admissionError s.hub start stop name = some e ∧ t = { s with reply := .error e }) ∨
       admissionError s.hub start stop name = none ∧
       t = { s with
         hub := withBinding s.hub { name := name, start := start, stop := stop, periph := p }
         reply := .unit }) := by
  obtain ⟨hp, h⟩ := onPeriph_next h
  refine ⟨hp, ?_⟩
  split at h
  · exact .inl ⟨_, ‹_›, finish_next h⟩
  · exact .inr ⟨‹_›, finish_next h⟩

/-- `SYS.ATTACH` raises as `HUB.REGISTER` does and else inserts the binding and maps the region (R306). -/
theorem execSysAttach_next {name : String} {start stop : Nat} {p : PeriphRef} {s t : State}
    (h : execSysAttach name start stop p s = .next t) : periphExists s p = true ∧
      ((∃ e, admissionError s.hub start stop name = some e ∧ t = { s with reply := .error e }) ∨
       admissionError s.hub start stop name = none ∧
       t = { s with
         hub := withBinding s.hub { name := name, start := start, stop := stop, periph := p }
         rtr := withIo start stop p s.rtr
         reply := .unit }) := by
  obtain ⟨hp, h⟩ := onPeriph_next h
  refine ⟨hp, ?_⟩
  split at h
  · exact .inl ⟨_, ‹_›, finish_next h⟩
  · exact .inr ⟨‹_›, finish_next h⟩

/-- `SYS.DETACH` removes the binding of the name and the region of its range, where the name is bound (R307). -/
theorem execSysDetach_next {name : String} {s t : State} (h : execSysDetach name s = .next t) :
    (∃ b, s.hub.bindings.find? (fun b => b.name == name) = some b ∧
      t = { s with
        rtr := { s.rtr with ios := s.rtr.ios.filter (fun g => !(g.start == b.start && g.stop == b.stop)) }
        hub := withoutBinding s.hub name
        reply := .unit }) ∨
    s.hub.bindings.find? (fun b => b.name == name) = none ∧ t = { s with reply := .unit } := by
  simp only [execSysDetach] at h
  split at h
  · exact .inl ⟨_, ‹_›, finish_next h⟩
  · exact .inr ⟨‹_›, finish_next h⟩

end Sys2Proof.Machine
end

section
/-! Interrupt edges (R290): the relation of two states between which the edges emitted balance the IRQ line, kept by
each shared operation and then by each instruction. -/

namespace Sys2Proof.Machine

/-- From `s` to `t` events are only appended, and the triggers less the clears are the change of the IRQ line. The
balance is written without subtraction. -/
structure EdgesBalanced (s t : State) : Prop where
  appended : ∃ l, t.events = s.events ++ l
  balance : emitted .cpuTriggerIrq t + emitted .cpuClearIrq s + irqLevel s =
    emitted .cpuTriggerIrq s + emitted .cpuClearIrq t + irqLevel t

theorem EdgesBalanced.trans {s t u : State} (h1 : EdgesBalanced s t) (h2 : EdgesBalanced t u) :
    EdgesBalanced s u := by
  obtain ⟨⟨l1, e1⟩, b1⟩ := h1
  obtain ⟨⟨l2, e2⟩, b2⟩ := h2
  exact ⟨⟨l1 ++ l2, by rw [e2, e1, List.append_assoc]⟩, by omega⟩

/-- The new events and the two levels of the line decide the balance. -/
theorem edgesBalanced_of_append {s t : State} {l : List Event} (he : t.events = s.events ++ l)
    (hb : l.count .cpuTriggerIrq + irqLevel s = l.count .cpuClearIrq + irqLevel t) : EdgesBalanced s t :=
  ⟨⟨l, he⟩, by simp only [emitted, he, List.count_append]; omega⟩

/-- What touches neither the events nor the IRQ set is balanced. -/
theorem edgesBalanced_of_same {s t : State} (he : t.events = s.events) (hq : t.agg.irq = s.agg.irq) :
    EdgesBalanced s t :=
  edgesBalanced_of_append (l := []) (by simp [he]) (by simp [irqLevel, hq])

theorem EdgesBalanced.refl (s : State) : EdgesBalanced s s := edgesBalanced_of_same rfl rfl

/-! ## The shared operations -/

/-- The events of peripherals are `port.write` only, which is no edge. -/
theorem DevicesOnly.edgesBalanced {s t : State} (h : DevicesOnly s t) : EdgesBalanced s t := by
  obtain ⟨l, he, hports⟩ := h.log
  have hno : ∀ e, (∀ k b, e ≠ .portWrite k b) → l.count e = 0 := fun e hne =>
    List.count_eq_zero.mpr fun hmem => by
      obtain ⟨k, b, hkb⟩ := hports e hmem
      exact hne k b hkb
  have hq : irqLevel t = irqLevel s := by simp only [irqLevel, devicesOnly_agg h]
  exact edgesBalanced_of_append he (by rw [hno _ (by simp), hno _ (by simp), hq])

theorem raiseIrq_edgesBalanced (src : Source) (s : State) : EdgesBalanced s (raiseIrq src s) := by
  have hup : irqLevel (raiseIrq src s) = 1 :=
    if_neg (List.ne_nil_of_mem ((mem_raiseIrq src src s).mpr (.inl rfl)))
  by_cases h : s.agg.irq = []
  · exact edgesBalanced_of_append (l := [.cpuTriggerIrq]) (by rw [raiseIrq_events, if_pos h])
      (by rw [hup]; simp [irqLevel, h])
  · exact edgesBalanced_of_append (l := []) (by rw [raiseIrq_events, if_neg h, List.append_nil])
      (by rw [hup]; simp [irqLevel, h])

theorem dropIrq_edgesBalanced (src : Source) (s : State) : EdgesBalanced s (dropIrq src s) := by
  have hev := dropIrq_events src s
  by_cases hs : s.agg.irq = []
  · exact edgesBalanced_of_same (by simpa [hs] using hev) (by simp [hs])
  · by_cases hleft : s.agg.irq.filter (fun x => x != src) = []
    · rw [if_pos ⟨hs, hleft⟩] at hev
      exact edgesBalanced_of_append hev (by rw [irqLevel, irqLevel, dropIrq_agg, if_neg hs, if_pos hleft]; decide)
    · rw [if_neg fun h => hleft h.2, ← List.append_nil s.events] at hev
      exact edgesBalanced_of_append hev (by rw [irqLevel, irqLevel, dropIrq_agg, if_neg hs, if_neg hleft]; decide)

/-- `cpu.triggerNMI()` is no edge of the IRQ line. -/
theorem raiseNmi_edgesBalanced (src : Source) (s : State) : EdgesBalanced s (raiseNmi src s) := by
  have hq : irqLevel (raiseNmi src s) = irqLevel s := by simp [irqLevel]
  have hev := raiseNmi_events src s
  split at hev
  · exact edgesBalanced_of_append hev (by rw [hq]; simp)
  · exact edgesBalanced_of_same hev (by simp)

/-- `AGG.UPDATE` is two loops of raises and drops (R284). -/
theorem aggUpdateAll_edgesBalanced (act : List String) (s : State) : EdgesBalanced s (aggUpdateAll act s) := by
  have hadd : ∀ (t : State) (n : String), EdgesBalanced t
      (if t.agg.irq.contains (.peripheral n) then t else raiseIrq (.peripheral n) t) := fun t n => by
    split
    · exact .refl t
    · exact raiseIrq_edgesBalanced _ t
  exact (foldl_relates EdgesBalanced.refl EdgesBalanced.trans hadd act s).trans
    (foldl_relates EdgesBalanced.refl EdgesBalanced.trans
      (fun t (n : String) => dropIrq_edgesBalanced (.peripheral n) t) _ _)

theorem busWriteAt_edgesBalanced (addr v : Nat) (s : State) : EdgesBalanced s (busWriteAt addr v s) := by
  rcases busWriteAt_cases addr v s with h | ⟨ram, h⟩
  · exact h.edgesBalanced
  · rw [h]
    exact edgesBalanced_of_same rfl rfl

theorem runAccesses_edgesBalanced :
    ∀ (l : List Access) (s : State), EdgesBalanced s (runAccesses l s).2
  | [], s => .refl s
  | .read addr :: rest, s => (busReadAt_devicesOnly addr s).edgesBalanced.trans (runAccesses_edgesBalanced rest _)
  | .write addr v :: rest, s => (busWriteAt_edgesBalanced addr v s).trans (runAccesses_edgesBalanced rest _)

theorem afterEngine_edgesBalanced (c : Nat) (s : State) : EdgesBalanced s (afterEngine c s) :=
  (hubTickAll_devicesOnly c s).edgesBalanced.trans (aggUpdateAll_edgesBalanced _ _)

/-! ## The instructions -/

theorem finish_edgesBalanced {s u t : State} {r : Reply} (h : finish u r = .next t) (hu : EdgesBalanced s u) :
    EdgesBalanced s t := by
  rw [finish_next h]
  exact hu.trans (edgesBalanced_of_same rfl rfl)

theorem DevicesAndReplyOnly.edgesBalanced {s t : State} (h : DevicesAndReplyOnly s t) : EdgesBalanced s t := by
  obtain ⟨u, r, hu, rfl⟩ := h
  exact finish_edgesBalanced (finish_eq u r) hu.edgesBalanced

theorem execSysStep_edgesBalanced {l : List Access} {c : Nat} {s t : State}
    (h : execSysStep l c s = .next t) : EdgesBalanced s t := by
  have hrun := runAccesses_edgesBalanced l s
  simp only [execSysStep] at h
  split at h
  · exact finish_edgesBalanced h hrun
  · exact finish_edgesBalanced h (hrun.trans (afterEngine_edgesBalanced c _))

/-- Every operation but the two resets of the aggregator keeps the balance (R290, D38). -/
theorem exec_edgesBalanced {i : Instr} {s t : State} (hagg : i ≠ .aggReset) (hsys : i ≠ .sysReset)
    (h : exec i s = .next t) : EdgesBalanced s t := by
  cases hi : reachesOnlyDevices i with
  | true => exact (exec_devices hi h).edgesBalanced
  | false =>
    cases i with
    | aggReset => exact absurd rfl hagg
    | sysReset => exact absurd rfl hsys
    | busWrite addr v => exact finish_edgesBalanced h (busWriteAt_edgesBalanced addr v s)
    | rtrConfigRam | rtrLoadRom | rtrClearRam | hubUnregister | aggClrNmi =>
      exact finish_edgesBalanced h (edgesBalanced_of_same rfl rfl)
    | rtrMapIo =>
      obtain ⟨-, ⟨-, rfl⟩ | ⟨-, rfl⟩⟩ := execRtrMapIo_next h <;> exact edgesBalanced_of_same rfl rfl
    | hubRegister =>
      obtain ⟨-, ⟨_, -, rfl⟩ | ⟨-, rfl⟩⟩ := execHubRegister_next h <;> exact edgesBalanced_of_same rfl rfl
    | sysAttach =>
      obtain ⟨-, ⟨_, -, rfl⟩ | ⟨-, rfl⟩⟩ := execSysAttach_next h <;> exact edgesBalanced_of_same rfl rfl
    | sysDetach =>
      obtain ⟨_, -, rfl⟩ | ⟨-, rfl⟩ := execSysDetach_next h <;> exact edgesBalanced_of_same rfl rfl
    | aggTrigIrq src => exact finish_edgesBalanced h (raiseIrq_edgesBalanced src s)
    | aggTrigNmi src => exact finish_edgesBalanced h (raiseNmi_edgesBalanced src s)
    | aggClrIrq src => exact finish_edgesBalanced h (dropIrq_edgesBalanced src s)
    | aggUpdate act => exact finish_edgesBalanced h (aggUpdateAll_edgesBalanced act s)
    | sysStep => exact execSysStep_edgesBalanced h
    | _ => cases hi

/-- The two resets append to the events as well: `AGG.RESET` nothing (D41), `SYS.RESET` the `cpu.reset()` (R308). -/
theorem exec_events_appended {i : Instr} {s t : State} (h : exec i s = .next t) :
    ∃ l, t.events = s.events ++ l := by
  by_cases hagg : i = .aggReset
  · subst hagg
    exact ⟨[], by rw [finish_next h]; simp⟩
  by_cases hsys : i = .sysReset
  · subst hsys
    obtain ⟨l, hl, -⟩ := (resetBound_devicesOnly s).log
    exact ⟨l ++ [.cpuReset], by rw [finish_next h]; simp [hl]⟩
  exact (exec_edgesBalanced hagg hsys h).appended

/-- Settles O15: by the balance of each shared operation, and a case split over the instructions. -/
theorem interruptEdgesBalanceTheIrqSet : Obligations.InterruptEdgesBalanceTheIrqSet := fun _ _ _ h =>
  ⟨exec_events_appended h, fun hagg hsys => (exec_edgesBalanced hagg hsys h).balance⟩

end Sys2Proof.Machine
end

section
/-! SUPPORT. The wiring: what the operations that do not manage the map leave alone. It is what was fixed at
construction (R30, R39, log entries 1 and 2), the ROM images and IO regions, and the bindings. -/

namespace Sys2Proof.Machine

/-- From `s` to `t` only the aggregator's sets and the events may differ. -/
def AggOnly (s t : State) : Prop := t = { s with agg := t.agg, events := t.events }

theorem AggOnly.refl (s : State) : AggOnly s s := rfl

theorem AggOnly.trans {s t u : State} (h1 : AggOnly s t) (h2 : AggOnly t u) : AggOnly s u := by
  rw [AggOnly] at h1 h2
  rw [h1] at h2
  exact h2

theorem raiseIrq_aggOnly (src : Source) (s : State) : AggOnly s (raiseIrq src s) := by
  simp only [raiseIrq]; split <;> rfl

theorem raiseNmi_aggOnly (src : Source) (s : State) : AggOnly s (raiseNmi src s) := by
  simp only [raiseNmi]; split <;> rfl

theorem dropIrq_aggOnly (src : Source) (s : State) : AggOnly s (dropIrq src s) := by
  simp only [dropIrq]; split <;> rfl

/-- `AGG.UPDATE` is raises and drops of peripheral sources, one after another (R284). -/
theorem aggUpdateAll_relates {R : State → State → Prop} (hrefl : ∀ s, R s s)
    (htrans : ∀ {s t u}, R s t → R t u → R s u) (hraise : ∀ src s, R s (raiseIrq src s))
    (hdrop : ∀ src s, R s (dropIrq src s)) (act : List String) (s : State) : R s (aggUpdateAll act s) := by
  have hadd : ∀ (t : State) (n : String), R t
      (if t.agg.irq.contains (.peripheral n) then t else raiseIrq (.peripheral n) t) := fun t n => by
    split
    · exact hrefl t
    · exact hraise _ t
  exact htrans (foldl_relates hrefl htrans hadd act s) (foldl_relates hrefl htrans (fun t _ => hdrop _ t) _ _)

theorem aggUpdateAll_aggOnly (act : List String) (s : State) : AggOnly s (aggUpdateAll act s) :=
  aggUpdateAll_relates AggOnly.refl AggOnly.trans raiseIrq_aggOnly dropIrq_aggOnly act s

/-- What construction fixed and the agents presented is the same in `s` and `t`: the parameters, the requests to come, the
instances, and each ACIA's `BAUD` and port. -/
structure ConstructionKept (s t : State) : Prop where
  params : t.params = s.params
  requests : t.requests = s.requests
  acias : t.acias.map (fun a => (a.baud, a.port)) = s.acias.map (fun a => (a.baud, a.port))
  vias : t.vias.length = s.vias.length

/-- `s` and `t` have the same construction, ROM images, IO regions and bindings. -/
structure WiringKept (s t : State) : Prop extends ConstructionKept s t where
  roms : t.rtr.roms = s.rtr.roms
  ios : t.rtr.ios = s.rtr.ios
  hub : t.hub = s.hub

theorem WiringKept.refl (s : State) : WiringKept s s := ⟨⟨rfl, rfl, rfl, rfl⟩, rfl, rfl, rfl⟩

theorem WiringKept.trans {s t u : State} (h1 : WiringKept s t) (h2 : WiringKept t u) : WiringKept s u where
  params := h2.params.trans h1.params
  requests := h2.requests.trans h1.requests
  acias := h2.acias.trans h1.acias
  vias := h2.vias.trans h1.vias
  roms := h2.roms.trans h1.roms
  ios := h2.ios.trans h1.ios
  hub := h2.hub.trans h1.hub

/-- Equal construction has equally many ACIAs. -/
theorem ConstructionKept.acias_length {s t : State} (h : ConstructionKept s t) :
    t.acias.length = s.acias.length := by
  simpa using congrArg List.length h.acias

/-- With the same chips, a reference names one of them after as before. -/
theorem ConstructionKept.periphExists_eq {s t : State} (h : ConstructionKept s t) (p : PeriphRef) :
    periphExists t p = periphExists s p := by
  cases p with
  | acia i => simp only [periphExists, h.acias_length]
  | via i => simp only [periphExists, h.vias]

theorem DevicesOnly.wiringKept {s t : State} (h : DevicesOnly s t) : WiringKept s t where
  params := devicesOnly_params h
  requests := devicesOnly_requests h
  acias := by
    refine List.ext_getElem (by simp [h.acias]) fun n hn hn' => ?_
    simp only [List.length_map] at hn hn'
    obtain ⟨hbaud, hport⟩ := h.built n _ _ (List.getElem?_eq_getElem hn') (List.getElem?_eq_getElem hn)
    simp [hbaud, hport]
  vias := h.vias
  roms := by rw [devicesOnly_rtr h]
  ios := by rw [devicesOnly_rtr h]
  hub := devicesOnly_hub h

theorem AggOnly.wiringKept {s t : State} (h : AggOnly s t) : WiringKept s t := by
  rw [AggOnly] at h
  rw [h]
  exact ⟨⟨rfl, rfl, rfl, rfl⟩, rfl, rfl, rfl⟩

/-! ## The shared operations -/

theorem busWriteAt_wiringKept (addr v : Nat) (s : State) : WiringKept s (busWriteAt addr v s) := by
  rcases busWriteAt_cases addr v s with h | ⟨ram, h⟩
  · exact h.wiringKept
  · rw [h]
    exact ⟨⟨rfl, rfl, rfl, rfl⟩, rfl, rfl, rfl⟩

theorem runAccesses_wiringKept : ∀ (l : List Access) (s : State), WiringKept s (runAccesses l s).2
  | [], s => .refl s
  | .read addr :: rest, s => (busReadAt_devicesOnly addr s).wiringKept.trans (runAccesses_wiringKept rest _)
  | .write addr v :: rest, s => (busWriteAt_wiringKept addr v s).trans (runAccesses_wiringKept rest _)

theorem afterEngine_wiringKept (c : Nat) (s : State) : WiringKept s (afterEngine c s) :=
  (hubTickAll_devicesOnly c s).wiringKept.trans (aggUpdateAll_aggOnly _ _).wiringKept

/-- `SYS.STEP` ends after the engine's accesses (R309), or after the tick and the update as well (R305). -/
theorem execSysStep_next {l : List Access} {c : Nat} {s t : State} (h : execSysStep l c s = .next t) :
    (c = 0 ∧ t = { (runAccesses l s).2 with reply := .halted (runAccesses l s).1 }) ∨
    (c ≠ 0 ∧ t = { afterEngine c (runAccesses l s).2 with reply := .ran c (runAccesses l s).1 }) := by
  simp only [execSysStep] at h
  split at h
  · exact .inl ⟨‹_›, finish_next h⟩
  · exact .inr ⟨‹_›, finish_next h⟩

/-! ## The map's management, by what it leaves alone -/

theorem withRom_ios (data : List Byte) (start : Nat) (r : Router) : (withRom data start r).ios = r.ios := by
  simp only [withRom]; split <;> rfl

theorem withRamCleared_ios (r : Router) : (withRamCleared r).ios = r.ios := by
  simp only [withRamCleared]; split <;> rfl

theorem withRamCleared_roms (r : Router) : (withRamCleared r).roms = r.roms := by
  simp only [withRamCleared]; split <;> rfl

/-! ## The instructions -/

theorem WiringKept.withReply {s t : State} (h : WiringKept s t) (r : Reply) :
    WiringKept s { t with reply := r } := ⟨⟨h.params, h.requests, h.acias, h.vias⟩, h.roms, h.ios, h.hub⟩

theorem finish_wiringKept {s u t : State} {r : Reply} (h : finish u r = .next t) (hu : WiringKept s u) :
    WiringKept s t := by
  rw [finish_next h]
  exact hu.withReply r

/-- Every operation but the management of ROM images, IO regions and bindings keeps the wiring. -/
theorem exec_wiringKept {i : Instr} {s t : State} (hroms : mayChangeRoms i = false) (hios : mayChangeIos i = false)
    (hhub : mayChangeHub i = false) (h : exec i s = .next t) : WiringKept s t := by
  cases hi : reachesOnlyDevices i with
  | true =>
    obtain ⟨u, r, hu, rfl⟩ := exec_devices hi h
    exact hu.wiringKept.withReply r
  | false =>
    cases i with
    | rtrLoadRom => cases hroms
    | rtrMapIo | sysAttach | sysDetach => cases hios
    | hubRegister | hubUnregister => cases hhub
    | busWrite addr v => exact finish_wiringKept h (busWriteAt_wiringKept addr v s)
    | rtrConfigRam => exact finish_wiringKept h ⟨⟨rfl, rfl, rfl, rfl⟩, rfl, rfl, rfl⟩
    | rtrClearRam =>
      exact finish_wiringKept h ⟨⟨rfl, rfl, rfl, rfl⟩, withRamCleared_roms s.rtr, withRamCleared_ios s.rtr, rfl⟩
    | aggTrigIrq src => exact finish_wiringKept h (raiseIrq_aggOnly src s).wiringKept
    | aggTrigNmi src => exact finish_wiringKept h (raiseNmi_aggOnly src s).wiringKept
    | aggClrIrq src => exact finish_wiringKept h (dropIrq_aggOnly src s).wiringKept
    | aggClrNmi | aggReset => exact finish_wiringKept h (AggOnly.wiringKept rfl)
    | aggUpdate act => exact finish_wiringKept h (aggUpdateAll_aggOnly act s).wiringKept
    | sysStep l c =>
      have hrun := runAccesses_wiringKept l s
      obtain ⟨-, rfl⟩ | ⟨-, rfl⟩ := execSysStep_next h
      · exact hrun.withReply _
      · exact (hrun.trans (afterEngine_wiringKept c _)).withReply _
    | sysReset =>
      exact finish_wiringKept h ((resetBound_devicesOnly s).wiringKept.trans (AggOnly.wiringKept rfl))
    | _ => cases hi

/-- Every operation keeps what construction fixed (R30, R39): those that manage the map touch the regions and the
bindings alone. -/
theorem exec_constructionKept {i : Instr} {s t : State} (h : exec i s = .next t) : ConstructionKept s t := by
  cases i with
  | rtrLoadRom | hubUnregister =>
    rw [finish_next h]
    exact ⟨rfl, rfl, rfl, rfl⟩
  | rtrMapIo => obtain ⟨-, ⟨-, rfl⟩ | ⟨-, rfl⟩⟩ := execRtrMapIo_next h <;> exact ⟨rfl, rfl, rfl, rfl⟩
  | hubRegister => obtain ⟨-, ⟨_, -, rfl⟩ | ⟨-, rfl⟩⟩ := execHubRegister_next h <;> exact ⟨rfl, rfl, rfl, rfl⟩
  | sysAttach => obtain ⟨-, ⟨_, -, rfl⟩ | ⟨-, rfl⟩⟩ := execSysAttach_next h <;> exact ⟨rfl, rfl, rfl, rfl⟩
  | sysDetach => obtain ⟨_, -, rfl⟩ | ⟨-, rfl⟩ := execSysDetach_next h <;> exact ⟨rfl, rfl, rfl, rfl⟩
  | _ => exact (exec_wiringKept rfl rfl rfl h).toConstructionKept

/-- Settles O12: by `exec_constructionKept`, field by field. -/
theorem constructionParametersNeverChange : Obligations.ConstructionParametersNeverChange := fun _ _ _ h =>
  have hkept := exec_constructionKept h
  ⟨hkept.params, hkept.requests, hkept.acias, hkept.vias⟩

end Sys2Proof.Machine
end

section
/-! SUPPORT. The well-formed states: each part of the map and of the aggregator under the operation that changes it,
then every instruction. -/

namespace Sys2Proof.Machine

/-! ## The map -/

/-- An address resolves to RAM only inside the block (R138). -/
theorem resolve_eq_ram {r : Router} {a : Nat} {m : RamBlock} (h : resolve r a = .ram m) :
    r.ram = some m ∧ m.base ≤ a ∧ a < m.base + m.size := by
  simp only [resolve] at h
  split at h
  · cases h
  · split at h
    · cases h
    · split at h
      · next m' hm =>
        split at h
        · next hc =>
          cases h
          exact ⟨hm, by simpa [ramCovers] using hc⟩
        · cases h
      · cases h

/-- A store inside the block keeps its memory canonical and inside it. -/
theorem ramWf_write {m : RamBlock} {a : Nat} (d : Byte) (h : ramWf m) (hlo : m.base ≤ a)
    (hhi : a < m.base + m.size) : ramWf { m with bytes := m.bytes.write a d } := by
  obtain ⟨hsize, hmem, hrange⟩ := h
  refine ⟨hsize, write_wf a d _ hmem, fun c hc => ?_⟩
  rcases mem_write hc with hc | ⟨rfl, -⟩
  · exact hrange c hc
  · exact ⟨hlo, hhi⟩

theorem ramWf_empty {base size : Nat} (h : 1 ≤ size) : ramWf { base := base, size := size, bytes := [] } :=
  ⟨h, nil_wf, by simp⟩

theorem withFreshRam_routerWf (start size : Nat) {r : Router} (h : routerWf r) :
    routerWf (withFreshRam start size r) := by
  obtain ⟨-, hroms, hios⟩ := h
  refine ⟨fun m hm => ?_, hroms, hios⟩
  simp only [withFreshRam] at hm
  split at hm
  · next hsize =>
    obtain rfl : _ = m := Option.mem_some.mp hm
    exact ramWf_empty hsize
  · cases hm

theorem withRamCleared_routerWf {r : Router} (h : routerWf r) : routerWf (withRamCleared r) := by
  obtain ⟨hram, hroms, hios⟩ := h
  simp only [withRamCleared]
  split
  · next m hm =>
    refine ⟨fun m' hm' => ?_, hroms, hios⟩
    obtain rfl : _ = m' := Option.mem_some.mp hm'
    exact ramWf_empty (hram m hm).1
  · exact ⟨hram, hroms, hios⟩

/-- Of two non-empty ranges that do not intersect the one that starts first ends before the other (R146). -/
theorem before_of_not_intersects {s1 e1 s2 e2 : Nat} (h : intersects s1 e1 s2 e2 = false) (h1 : s1 ≤ e1)
    (h2 : s2 ≤ e2) : (s2 < s1 → e2 < s1) ∧ (s1 ≤ s2 → e1 < s2) := by
  simp only [intersects, Bool.and_eq_false_iff, decide_eq_false_iff_not] at h
  omega

theorem forall_mem_insertByKey {α : Type} {P : α → Prop} {key : α → Nat} {x : α} {l : List α} (hx : P x)
    (hl : ∀ y ∈ l, P y) : ∀ y ∈ insertByKey key x l, P y := fun y hy => by
  rcases (mem_insertByKey _ _ _ _).mp hy with rfl | hy
  · exact hx
  · exact hl y hy

theorem forall_mem_filter {α : Type} {P : α → Prop} {l : List α} (hl : ∀ y ∈ l, P y) (q : α → Bool) :
    ∀ y ∈ l.filter q, P y := fun y hy => hl y (List.mem_of_mem_filter hy)

/-- A range put in its place among disjoint ranges that it does not meet leaves the list disjoint and rising. -/
theorem insertByKey_disjoint {α : Type} {start stop : α → Nat} {x : α} {l : List α}
    (hl : l.Pairwise (fun y z => stop y < start z)) (hne : ∀ y ∈ l, start y ≤ stop y) (hx : start x ≤ stop x)
    (hmeet : ∀ y ∈ l, intersects (start y) (stop y) (start x) (stop x) = false) :
    (insertByKey start x l).Pairwise (fun y z => stop y < start z) := by
  have hl' : l.Pairwise (fun y z => stop y < start z ∧ start z ≤ stop z) :=
    hl.imp_of_mem fun _ hz h => ⟨h, hne _ hz⟩
  refine (insertByKey_pairwise (fun h1 h2 => ⟨by omega, h2.2⟩) hl' fun y hy => ?_).imp And.left
  obtain ⟨hafter, hbefore⟩ := before_of_not_intersects (hmeet y hy) (hne y hy) hx
  exact ⟨fun h => ⟨hafter h, hne y hy⟩, fun h => ⟨hbefore h, hx⟩⟩

theorem withIo_routerWf {start stop : Nat} (p : PeriphRef) {r : Router} (h : routerWf r) (hle : start ≤ stop) :
    routerWf (withIo start stop p r) := by
  obtain ⟨hram, hroms, hdisjoint, hne⟩ := h
  have hkept := forall_mem_filter hne fun g => !intersects g.start g.stop start stop
  exact ⟨hram, hroms, insertByKey_disjoint (hdisjoint.filter _) hkept hle
    fun g hg => by simpa using List.of_mem_filter hg, forall_mem_insertByKey hle hkept⟩

/-- Images that end before the next begins, in the form of inclusive ranges. -/
theorem romsDisjoint_iff {l : List RomBlock} (hne : ∀ b ∈ l, 1 ≤ b.bytes.length) :
    l.Pairwise (fun x y => x.base + x.bytes.length ≤ y.base) ↔ l.Pairwise (fun x y => romLast x < y.base) :=
  List.Pairwise.iff_of_mem fun {x y} hx _ => by
    have := hne x hx
    simp only [romLast]
    omega

theorem withRom_routerWf (data : List Byte) (start : Nat) {r : Router} (h : routerWf r) :
    routerWf (withRom data start r) := by
  simp only [withRom]
  split
  · exact h
  next hdata =>
  obtain ⟨hram, ⟨hdisjoint, hne⟩, hios⟩ := h
  have hlen : 1 ≤ data.length := List.length_pos_iff.mpr (by simpa using hdata)
  have hkept := forall_mem_filter hne fun b => !intersects b.base (romLast b) start (start + data.length - 1)
  have hall := forall_mem_insertByKey (P := fun b => 1 ≤ b.bytes.length) (key := RomBlock.base)
    (x := { base := start, bytes := data }) hlen hkept
  have hlast : ∀ b : RomBlock, 1 ≤ b.bytes.length → b.base ≤ romLast b := fun b hb => by
    simp only [romLast]; omega
  refine ⟨hram, ⟨(romsDisjoint_iff hall).mpr ?_, hall⟩, hios⟩
  exact insertByKey_disjoint ((romsDisjoint_iff hkept).mp (hdisjoint.filter _)) (fun b hb => hlast b (hkept b hb))
    (hlast _ hlen) fun b hb => by simpa [romLast] using List.of_mem_filter hb

/-- A registration has no error when its range is not inverted, its name is new, and no binding meets its range (R133). -/
theorem admissionError_eq_none {h : Hub} {start stop : Nat} {name : String}
    (hadm : admissionError h start stop name = none) :
    start ≤ stop ∧ (∀ b ∈ h.bindings, b.name ≠ name) ∧
      ∀ b ∈ h.bindings, intersects b.start b.stop start stop = false := by
  simp only [admissionError] at hadm
  split at hadm
  · cases hadm
  · split at hadm
    · cases hadm
    · next hrange hname =>
      split at hadm
      · cases hadm
      · next hmeet =>
        exact ⟨by omega, by simpa using hname, by simpa using hmeet⟩

theorem withBinding_hubWf {h : Hub} {start stop : Nat} {name : String} (p : PeriphRef) (hwf : hubWf h)
    (hadm : admissionError h start stop name = none) :
    hubWf (withBinding h { name := name, start := start, stop := stop, periph := p }) := by
  obtain ⟨hdisjoint, hnames, hne⟩ := hwf
  obtain ⟨hle, hnew, hmeet⟩ := admissionError_eq_none hadm
  refine ⟨insertByKey_disjoint hdisjoint hne hle hmeet, ?_, forall_mem_insertByKey hle hne⟩
  exact ((insertByKey_perm _ _ _).pairwise_iff fun hxy => hxy.symm).mpr
    (List.pairwise_cons.mpr ⟨fun b hb => (hnew b hb).symm, hnames⟩)

theorem withoutBinding_hubWf (name : String) {h : Hub} (hwf : hubWf h) : hubWf (withoutBinding h name) := by
  obtain ⟨hdisjoint, hnames, hne⟩ := hwf
  exact ⟨hdisjoint.filter _, hnames.filter _, forall_mem_filter hne _⟩

/-! ## The chips' own operations -/

theorem State.wf.devices {s : State} (h : s.wf) : devicesWf s := ⟨h.2.1, h.2.2.1⟩

theorem viaReadOp_devicesWf {i : Nat} {s t : State} {f : Via → Byte × Via} (hs : devicesWf s)
    (h : viaReadOp i s f = .next t) (hf : ∀ v, viaWf v → viaWf (f v).2) : devicesWf t := by
  obtain ⟨v, hv, rfl⟩ := viaReadOp_next h
  exact ⟨hs.1, forall_mem_set hs.2 (hf v (hs.2 v (mem_of_getElem?_some hv)))⟩

theorem viaWriteOp_devicesWf {i : Nat} {s t : State} {f : Via → Via} (hs : devicesWf s)
    (h : viaWriteOp i s f = .next t) (hf : ∀ v, viaWf v → viaWf (f v)) : devicesWf t := by
  obtain ⟨v, hv, rfl⟩ := viaWriteOp_next h
  exact ⟨hs.1, forall_mem_set hs.2 (hf v (hs.2 v (mem_of_getElem?_some hv)))⟩

theorem onAcia_set_devicesWf {i : Nat} {s t : State} {f : Acia → Acia} {r : Acia → Reply} (hs : devicesWf s)
    (h : onAcia i s (fun a => finish (setAcia i (f a) s) (r a)) = .next t)
    (hf : ∀ a, aciaWf s.params a → aciaWf s.params (f a)) : devicesWf t := by
  obtain ⟨a, ha, h⟩ := onAcia_next h
  rw [finish_next h]
  exact ⟨forall_mem_set hs.1 (hf a (hs.1 a (mem_of_getElem?_some ha))), hs.2⟩

theorem busReadAt_devicesWf (addr : Nat) {s : State} (h : devicesWf s) : devicesWf (busReadAt addr s).2 := by
  simp only [busReadAt]
  split
  case h_2 g _ => exact pRead_devicesWf g.periph _ h
  all_goals exact h

theorem finish_devicesWf {u t : State} {r : Reply} (h : finish u r = .next t) (hu : devicesWf u) : devicesWf t := by
  rw [finish_next h]
  exact hu

/-- The operations that reach nothing but peripherals keep every chip within its invariants (R185, R251). -/
theorem exec_devicesWf {i : Instr} {s t : State} (hi : reachesOnlyDevices i = true) (hs : devicesWf s)
    (h : exec i s = .next t) : devicesWf t := by
  cases i with
  | busWrite | rtrConfigRam | rtrLoadRom | rtrMapIo | rtrClearRam | hubRegister | hubUnregister
  | aggTrigIrq | aggTrigNmi | aggClrIrq | aggClrNmi | aggUpdate | aggReset
  | sysStep | sysReset | sysAttach | sysDetach => cases hi
  | busRead addr => exact finish_devicesWf h (busReadAt_devicesWf addr hs)
  | aciaStatusR | aciaUndefR | aciaUndefW | aciaIrq =>
    obtain ⟨a, -, h⟩ := onAcia_next h
    exact finish_devicesWf h hs
  | aciaCtrlW _ v => exact onAcia_set_devicesWf hs h (fun _ ha => aciaControlWrite_wf v ha)
  | aciaRdrR => exact onAcia_set_devicesWf hs h (fun _ ha => aciaDataRead_wf ha)
  | aciaTdrW _ v => exact onAcia_set_devicesWf hs h (fun _ ha => aciaDataWrite_wf v ha)
  | aciaReset => exact onAcia_set_devicesWf hs h (fun _ ha => aciaResetState_wf ha)
  | aciaTick _ c =>
    obtain ⟨a, ha, h⟩ := onAcia_next h
    exact finish_devicesWf h (aciaTickAt_devicesWf c ha hs)
  | viaT1clR => exact viaReadOp_devicesWf hs h (fun _ hv => clearFlag_low t1Bit hv)
  | viaT2clR => exact viaReadOp_devicesWf hs h (fun _ hv => clearFlag_low t2Bit hv)
  | viaOrbR | viaOraR | viaDdrbR | viaDdraR | viaT1chR | viaT1llR | viaT1lhR | viaT2chR
  | viaSrR | viaAcrR | viaPcrR | viaIfrR | viaIerR | viaOranhR => exact viaReadOp_devicesWf hs h (fun _ hv => hv)
  | viaT1chW | viaT1lhW | viaT2chW => exact viaWriteOp_devicesWf hs h (fun _ hv => clearFlag_low _ hv)
  | viaIfrW _ d => exact viaWriteOp_devicesWf hs h (fun _ hv => ifrWriteValue_low d hv)
  | viaTick _ c => exact viaWriteOp_devicesWf hs h (fun _ hv => viaTickStep_wf c hv)
  | viaReset => exact viaWriteOp_devicesWf hs h (fun _ _ => viaFresh_wf)
  | viaOrbW | viaOraW | viaDdrbW | viaDdraW | viaT1clW | viaT1llW | viaT2clW
  | viaSrW | viaAcrW | viaPcrW | viaIerW | viaOranhW => exact viaWriteOp_devicesWf hs h (fun _ hv => hv)
  | viaUndefR | viaUndefW | viaIrq =>
    obtain ⟨v, -, h⟩ := onVia_next h
    exact finish_devicesWf h hs
  | hubTick c => exact finish_devicesWf h (hubTickAll_devicesWf c hs)
  | hubCollect | aggIrqPend | aggNmiPend => exact finish_devicesWf h hs

/-! ## The whole state under the shared operations -/

theorem DevicesOnly.wf {s t : State} (h : DevicesOnly s t) (ht : devicesWf t) (hs : s.wf) : t.wf := by
  obtain ⟨hparams, -, -, hrtr, hhub, ⟨hios, hbound⟩, hagg⟩ := hs
  have hp := h.wiringKept.periphExists_eq
  refine ⟨by rwa [devicesOnly_params h], ht.1, ht.2, by rwa [devicesOnly_rtr h], by rwa [devicesOnly_hub h],
    ⟨?_, ?_⟩, by rwa [devicesOnly_agg h]⟩
  · simpa only [devicesOnly_rtr h, hp] using hios
  · simpa only [devicesOnly_hub h, hp] using hbound

theorem AggOnly.wf {s t : State} (h : AggOnly s t) (ht : aggWf t.agg) (hs : s.wf) : t.wf := by
  obtain ⟨hparams, hacias, hvias, hrtr, hhub, hrefs, -⟩ := hs
  rw [h]
  exact ⟨hparams, hacias, hvias, hrtr, hhub, hrefs, ht⟩

theorem State.wf.agg {s : State} (h : s.wf) : aggWf s.agg := h.2.2.2.2.2.2

theorem raiseIrq_wf (src : Source) {s : State} (h : s.wf) : (raiseIrq src s).wf :=
  (raiseIrq_aggOnly src s).wf (by simpa using ⟨h.agg.1.insert, h.agg.2⟩) h

theorem raiseNmi_wf (src : Source) {s : State} (h : s.wf) : (raiseNmi src s).wf :=
  (raiseNmi_aggOnly src s).wf (by simpa using ⟨h.agg.1, h.agg.2.insert⟩) h

theorem dropIrq_wf (src : Source) {s : State} (h : s.wf) : (dropIrq src s).wf :=
  (dropIrq_aggOnly src s).wf (by simpa using ⟨h.agg.1.filter _, h.agg.2⟩) h

theorem dropNmi_wf (src : Source) {s : State} (h : s.wf) : (dropNmi src s).wf :=
  AggOnly.wf rfl (by simpa using ⟨h.agg.1, h.agg.2.filter _⟩) h

theorem aggResetAll_wf {s : State} (h : s.wf) : (aggResetAll s).wf := AggOnly.wf rfl (by simp) h

theorem emit_wf (e : Event) {s : State} (h : s.wf) : (emit e s).wf := AggOnly.wf rfl h.agg h

theorem aggUpdateAll_wf (act : List String) {s : State} (h : s.wf) : (aggUpdateAll act s).wf :=
  aggUpdateAll_relates (R := fun s t => s.wf → t.wf) (fun _ => id) (fun h1 h2 => h2 ∘ h1)
    (fun src _ => raiseIrq_wf src) (fun src _ => dropIrq_wf src) act s h

theorem busReadAt_wf (addr : Nat) {s : State} (h : s.wf) : (busReadAt addr s).2.wf :=
  (busReadAt_devicesOnly addr s).wf (busReadAt_devicesWf addr h.devices) h

theorem busWriteAt_wf (addr v : Nat) {s : State} (h : s.wf) : (busWriteAt addr v s).wf := by
  simp only [busWriteAt]
  split
  · exact h
  · next g _ => exact (pWrite_devicesOnly g.periph _ _ s).wf (pWrite_devicesWf g.periph _ _ h.devices) h
  · next m hm =>
    obtain ⟨hram, hlo, hhi⟩ := resolve_eq_ram hm
    obtain ⟨hparams, hacias, hvias, ⟨hblock, hroms, hios⟩, hhub, hrefs, hagg⟩ := h
    refine ⟨hparams, hacias, hvias, ⟨fun m' hm' => ?_, hroms, hios⟩, hhub, hrefs, hagg⟩
    obtain rfl : _ = m' := Option.mem_some.mp hm'
    exact ramWf_write _ (hblock m hram) hlo hhi
  · exact h

theorem runAccesses_wf : ∀ (l : List Access) {s : State}, s.wf → (runAccesses l s).2.wf
  | [], _, h => h
  | .read addr :: rest, _, h => runAccesses_wf rest (busReadAt_wf addr h)
  | .write addr v :: rest, _, h => runAccesses_wf rest (busWriteAt_wf addr v h)

theorem hubTickAll_wf (c : Nat) {s : State} (h : s.wf) : (hubTickAll c s).wf :=
  (hubTickAll_devicesOnly c s).wf (hubTickAll_devicesWf c h.devices) h

theorem afterEngine_wf (c : Nat) {s : State} (h : s.wf) : (afterEngine c s).wf :=
  aggUpdateAll_wf _ (hubTickAll_wf c h)

theorem resetBound_wf {s : State} (h : s.wf) : (resetBound s).wf :=
  (resetBound_devicesOnly s).wf (resetBound_devicesWf h.devices) h

/-! ## The instructions -/

theorem finish_wf {u t : State} {r : Reply} (h : finish u r = .next t) (hu : u.wf) : t.wf := by
  rw [finish_next h]
  exact hu

/-- A well-formed router whose regions name instances keeps the state well-formed. -/
theorem State.wf.withRouter {s : State} (h : s.wf) {r : Router} (hr : routerWf r)
    (hrefs : ∀ g ∈ r.ios, periphExists s g.periph = true) : State.wf { s with rtr := r } := by
  obtain ⟨hparams, hacias, hvias, -, hhub, ⟨-, hbound⟩, hagg⟩ := h
  exact ⟨hparams, hacias, hvias, hr, hhub, ⟨hrefs, hbound⟩, hagg⟩

/-- A well-formed hub whose bindings name instances keeps the state well-formed. -/
theorem State.wf.withHub {s : State} (h : s.wf) {b : Hub} (hb : hubWf b)
    (hrefs : ∀ x ∈ b.bindings, periphExists s x.periph = true) : State.wf { s with hub := b } := by
  obtain ⟨hparams, hacias, hvias, hrtr, -, ⟨hios, -⟩, hagg⟩ := h
  exact ⟨hparams, hacias, hvias, hrtr, hb, ⟨hios, hrefs⟩, hagg⟩

/-- A region mapped to a chip of the system keeps the state well-formed. -/
theorem State.wf.withIo {s : State} (h : s.wf) {start stop : Nat} {p : PeriphRef} (hp : periphExists s p = true)
    (hle : start ≤ stop) : State.wf { s with rtr := withIo start stop p s.rtr } := by
  obtain ⟨-, -, -, hrtr, -, ⟨hios, -⟩, -⟩ := id h
  exact h.withRouter (withIo_routerWf p hrtr hle) (forall_mem_insertByKey hp (forall_mem_filter hios _))

/-- A binding of a chip of the system that no error forbids keeps the state well-formed. -/
theorem State.wf.withBinding {s : State} (h : s.wf) {start stop : Nat} {name : String} {p : PeriphRef}
    (hp : periphExists s p = true) (hadm : admissionError s.hub start stop name = none) :
    State.wf { s with hub := withBinding s.hub { name := name, start := start, stop := stop, periph := p } } := by
  obtain ⟨-, -, -, -, hhub, ⟨-, hbound⟩, -⟩ := id h
  exact h.withHub (withBinding_hubWf p hhub hadm) (forall_mem_insertByKey hp hbound)

/-- A binding less keeps the state well-formed. -/
theorem State.wf.withoutBinding {s : State} (h : s.wf) (name : String) :
    State.wf { s with hub := withoutBinding s.hub name } := by
  obtain ⟨-, -, -, -, hhub, ⟨-, hbound⟩, -⟩ := id h
  exact h.withHub (withoutBinding_hubWf name hhub) (forall_mem_filter hbound _)

/-- Regions less keep the state well-formed. -/
theorem State.wf.filterIos {s : State} (h : s.wf) (q : IoRegion → Bool) :
    State.wf { s with rtr := { s.rtr with ios := s.rtr.ios.filter q } } := by
  obtain ⟨-, -, -, ⟨hram, hroms, hdisjoint, hne⟩, -, ⟨hios, -⟩, -⟩ := id h
  exact h.withRouter ⟨hram, hroms, hdisjoint.filter _, forall_mem_filter hne q⟩ (forall_mem_filter hios q)

/-- Every operation keeps the well-formed states well-formed (R23 to R28, R185, R251, R48). -/
theorem exec_wf {i : Instr} {s t : State} (hs : s.wf) (h : exec i s = .next t) : t.wf := by
  cases hi : reachesOnlyDevices i with
  | true =>
    have ht := exec_devicesWf hi hs.devices h
    obtain ⟨u, r, hu, rfl⟩ := exec_devices hi h
    exact hu.wf ht hs
  | false =>
    obtain ⟨-, -, -, hrtr, -, ⟨hios, -⟩, -⟩ := id hs
    cases i with
    | busWrite addr v => exact finish_wf h (busWriteAt_wf addr v hs)
    | rtrConfigRam start size => exact finish_wf h (hs.withRouter (withFreshRam_routerWf start size hrtr) hios)
    | rtrLoadRom data start =>
      exact finish_wf h (hs.withRouter (withRom_routerWf data start hrtr) (by rwa [withRom_ios]))
    | rtrClearRam => exact finish_wf h (hs.withRouter (withRamCleared_routerWf hrtr) (by rwa [withRamCleared_ios]))
    | rtrMapIo =>
      obtain ⟨hp, ⟨-, rfl⟩ | ⟨hle, rfl⟩⟩ := execRtrMapIo_next h
      · exact hs
      · exact hs.withIo hp hle
    | hubRegister =>
      obtain ⟨hp, ⟨_, -, rfl⟩ | ⟨hadm, rfl⟩⟩ := execHubRegister_next h
      · exact hs
      · exact hs.withBinding hp hadm
    | hubUnregister name => exact finish_wf h (hs.withoutBinding name)
    | aggTrigIrq src => exact finish_wf h (raiseIrq_wf src hs)
    | aggTrigNmi src => exact finish_wf h (raiseNmi_wf src hs)
    | aggClrIrq src => exact finish_wf h (dropIrq_wf src hs)
    | aggClrNmi src => exact finish_wf h (dropNmi_wf src hs)
    | aggUpdate act => exact finish_wf h (aggUpdateAll_wf act hs)
    | aggReset => exact finish_wf h (aggResetAll_wf hs)
    | sysStep l c =>
      have hrun := runAccesses_wf l hs
      obtain ⟨-, rfl⟩ | ⟨-, rfl⟩ := execSysStep_next h
      · exact hrun
      · exact afterEngine_wf c hrun
    | sysReset => exact finish_wf h (emit_wf _ (aggResetAll_wf (resetBound_wf hs)))
    | sysAttach =>
      obtain ⟨hp, ⟨_, -, rfl⟩ | ⟨hadm, rfl⟩⟩ := execSysAttach_next h
      · exact hs
      · exact (hs.withBinding hp hadm).withIo hp (admissionError_eq_none hadm).1
    | sysDetach name =>
      obtain ⟨b, -, rfl⟩ | ⟨-, rfl⟩ := execSysDetach_next h
      · exact (hs.withoutBinding name).filterIos _
      · exact hs
    | _ => cases hi

theorem runRequest_wf {r : Request} {s t : State} (hs : s.wf) (h : runRequest r s = .next t) : t.wf := by
  simp only [runRequest] at h
  split at h
  · exact exec_wf hs h
  · cases h

/-- Settles O6: a step runs one operation on the state less its request, or nothing (R346). -/
theorem everyStepKeepsWellFormedness : Obligations.EveryStepKeepsWellFormedness := by
  intro s t hs h
  simp only [step, nextRequest] at h
  cases hq : s.requests with
  | nil =>
    simp only [hq] at h
    cases h
    exact hs
  | cons r rest =>
    simp only [hq] at h
    exact runRequest_wf (s := { s with requests := rest }) hs h

/-! ## Construction -/

/-- A fresh ACIA is within its invariants for every `BAUD` in range (R54, R185). -/
theorem aciaFresh_wf {p : Config.Params} {baud : Nat} (port : Option Nat) (hlo : 1 ≤ baud) (hhi : baud ≤ 1000000) :
    aciaWf p (aciaFresh baud port) := by
  refine ⟨⟨hlo, hhi⟩, by simp [aciaFresh], by simp [aciaFresh], by simp [aciaFresh], by simp [aciaFresh], ?_, ?_⟩
  · exact congrArg (cyclesPerBitOf baud) (by decide : 0b00#2 = divideSelect 0x00#8)
  · exact (by decide : divideSelect 0x00#8 ≠ 0b11#2)

/-- Settles O7: the fresh instances are within their invariants, and every region and set is empty (R53, R54). -/
theorem constructedStateIsWellFormed : Obligations.ConstructedStateIsWellFormed := by
  refine ⟨le_refl 1, fun a ha => ?_, fun v hv => ?_, ?_, ?_, ?_, ?_⟩
  · obtain rfl : a = aciaFresh 9600 none := List.mem_singleton.mp ha
    exact aciaFresh_wf none (by decide) (by decide)
  · obtain rfl : v = viaFresh := List.mem_singleton.mp hv
    exact viaFresh_wf
  all_goals simp [State.reset, routerFresh, routerWf, hubWf, refsWf, aggWf]

/-- The bit time at divide by 1 (R179). -/
theorem cyclesPerBitOf_divideBy1 (baud : Nat) : cyclesPerBitOf baud 0b00#2 = 1000000 / baud := by
  simp [cyclesPerBitOf, busHz, divideRatio]

/-- Settles O8: the reset values, chip by chip. -/
theorem constructionLeavesResetValues : Obligations.ConstructionLeavesResetValues := by
  refine ⟨rfl, rfl, rfl, rfl, fun a ha => ?_, fun v hv => List.mem_singleton.mp hv⟩
  obtain rfl : a = aciaFresh 9600 none := List.mem_singleton.mp ha
  exact ⟨9600, none, by rw [aciaFresh, cyclesPerBitOf_divideBy1]⟩

end Sys2Proof.Machine
end

section
/-! SUPPORT. The two halves of the map (R29, D4): bindings and IO regions name the same ranges, which attaching and
detaching keep and nothing else touches. -/

namespace Sys2Proof.Machine

/-- The halves are the regions and the bindings alone. -/
theorem halvesAgree_congr {s t : State} (hios : t.rtr.ios = s.rtr.ios) (hhub : t.hub = s.hub)
    (h : halvesAgree s) : halvesAgree t := by
  rwa [halvesAgree, hios, hhub]

/-- A name is bound once (R27). -/
theorem binding_eq_of_name {h : Hub} (hwf : hubWf h) {b c : Binding} (hb : b ∈ h.bindings) (hc : c ∈ h.bindings)
    (hname : b.name = c.name) : b = c := by
  obtain ⟨-, hnames, -⟩ := hwf
  exact List.inj_on_of_nodup_map (List.pairwise_map.mpr hnames) hb hc hname

/-- No two bindings start at one address, since their ranges are disjoint and not empty (R27). -/
theorem binding_eq_of_start {h : Hub} (hwf : hubWf h) {b c : Binding} (hb : b ∈ h.bindings) (hc : c ∈ h.bindings)
    (hstart : b.start = c.start) : b = c := by
  obtain ⟨hdisjoint, -, hle⟩ := hwf
  have hstarts : h.bindings.Pairwise (fun x y => x.start ≠ y.start) :=
    hdisjoint.imp_of_mem fun hx _ hxy => by
      have := hle _ hx
      omega
  exact List.inj_on_of_nodup_map (List.pairwise_map.mpr hstarts) hb hc hstart

/-- Where the halves agree, a range that meets no binding meets no region, so that mapping it evicts none. -/
theorem withIo_evicts_none {s : State} {start stop : Nat} (p : PeriphRef) (h : halvesAgree s)
    (hmeet : ∀ b ∈ s.hub.bindings, intersects b.start b.stop start stop = false) :
    (withIo start stop p s.rtr).ios =
      insertByKey IoRegion.start { start := start, stop := stop, periph := p } s.rtr.ios := by
  have hall : ∀ g ∈ s.rtr.ios, (!intersects g.start g.stop start stop) = true := fun g hg => by
    obtain ⟨b, hb, hstart, hstop, -⟩ := h.2 g hg
    rw [← hstart, ← hstop, hmeet b hb]
    rfl
  simp only [withIo, List.filter_eq_self.mpr hall]

/-- `SYS.ATTACH` adds a binding and a region of the same range (R306). -/
theorem execSysAttach_halvesAgree {name : String} {start stop : Nat} {p : PeriphRef} {s t : State}
    (hs : halvesAgree s) (h : execSysAttach name start stop p s = .next t) : halvesAgree t := by
  obtain ⟨-, ⟨_, -, rfl⟩ | ⟨hadm, rfl⟩⟩ := execSysAttach_next h
  · exact hs
  obtain ⟨-, -, hmeet⟩ := admissionError_eq_none hadm
  simp only [halvesAgree, withIo_evicts_none p hs hmeet, withBinding, mem_insertByKey]
  refine ⟨?_, ?_⟩
  · rintro b (rfl | hb)
    · exact ⟨_, .inl rfl, rfl, rfl, rfl⟩
    · obtain ⟨g, hg, hsame⟩ := hs.1 b hb
      exact ⟨g, .inr hg, hsame⟩
  · rintro g (rfl | hg)
    · exact ⟨_, .inl rfl, rfl, rfl, rfl⟩
    · obtain ⟨b, hb, hsame⟩ := hs.2 g hg
      exact ⟨b, .inr hb, hsame⟩

/-- `SYS.DETACH` removes a binding and the region of its range: the other bindings have other names and other
ranges (R307). -/
theorem execSysDetach_halvesAgree {name : String} {s t : State} (hwf : hubWf s.hub) (hs : halvesAgree s)
    (h : execSysDetach name s = .next t) : halvesAgree t := by
  obtain ⟨b, hfind, rfl⟩ | ⟨-, rfl⟩ := execSysDetach_next h
  swap
  · exact hs
  have hb : b ∈ s.hub.bindings := List.mem_of_find?_eq_some hfind
  have hname : b.name = name := by simpa using List.find?_some hfind
  simp only [halvesAgree, withoutBinding, List.mem_filter]
  refine ⟨?_, ?_⟩
  · rintro c ⟨hc, hcname⟩
    obtain ⟨g, hg, hstart, hstop, hp⟩ := hs.1 c hc
    refine ⟨g, ⟨hg, ?_⟩, hstart, hstop, hp⟩
    have hrange : g.start ≠ b.start := fun hgb => by
      obtain rfl := binding_eq_of_start hwf hc hb (hstart.symm.trans hgb)
      simp [hname] at hcname
    simp [hrange]
  · rintro g ⟨hg, hrange⟩
    obtain ⟨c, hc, hstart, hstop, hp⟩ := hs.2 g hg
    refine ⟨c, ⟨hc, ?_⟩, hstart, hstop, hp⟩
    have hcname : c.name ≠ name := fun hcn => by
      obtain rfl := binding_eq_of_name hwf hc hb (hcn.trans hname.symm)
      simp [hstart, hstop] at hrange
    simpa using hcname

/-- Settles O9: attaching and detaching move both halves at once, and no other operation left touches either. -/
theorem attachAndDetachKeepTheHalvesTogether : Obligations.AttachAndDetachKeepTheHalvesTogether := by
  refine ⟨by simp [halvesAgree, State.reset, routerFresh], fun i s t hwf hs hmap hreg hunreg h => ?_⟩
  cases i with
  | rtrMapIo start stop p => exact absurd rfl (hmap start stop p)
  | hubRegister p start stop name => exact absurd rfl (hreg p start stop name)
  | hubUnregister name => exact absurd rfl (hunreg name)
  | sysAttach => exact execSysAttach_halvesAgree hs h
  | sysDetach =>
    obtain ⟨-, -, -, -, hhub, -, -⟩ := hwf
    exact execSysDetach_halvesAgree hhub hs h
  | rtrLoadRom data start =>
    rw [finish_next h]
    exact halvesAgree_congr (withRom_ios data start s.rtr) rfl hs
  | _ =>
    have hkept := exec_wiringKept rfl rfl rfl h
    exact halvesAgree_congr hkept.ios hkept.hub hs

end Sys2Proof.Machine
end

section
/-! SUPPORT. The overrun flag (R32, R176): each operation on an ACIA keeps it but the reset, and a bus write is a reset
only where `isMasterResetWrite` says so (R370). -/

namespace Sys2Proof.Machine

/-! ## One ACIA -/

/-- The master reset command of a control byte, as a number (R31). -/
theorem isMasterReset_eq (v : Byte) : isMasterReset v = carriesMasterReset v.toNat := by
  have h : (divideSelect v).toNat = v.toNat % 4 := by simp [divideSelect]
  rw [Bool.eq_iff_iff]
  simp [isMasterReset, carriesMasterReset, ← BitVec.toNat_inj, h]

/-- The reduction of a written number to a byte (R72) keeps its low two bits. -/
theorem isMasterReset_reduceByte (v : Nat) : isMasterReset (reduceByte v) = carriesMasterReset v := by
  rw [isMasterReset_eq, carriesMasterReset, carriesMasterReset, reduceByte, BitVec.toNat_ofNat,
    Nat.mod_mod_of_dvd v (by decide)]

theorem aciaControlWrite_ovrn (a : Acia) {v : Byte} (h : isMasterReset v = false) :
    (aciaControlWrite a v).ovrn = a.ovrn := by
  simp [aciaControlWrite, h]

theorem aciaDataRead_ovrn (a : Acia) : (aciaDataRead a).2.ovrn = a.ovrn := by
  simp only [aciaDataRead]; split <;> rfl

theorem aciaDataWrite_ovrn (a : Acia) (v : Byte) : (aciaDataWrite a v).ovrn = a.ovrn := by
  simp only [aciaDataWrite]; split <;> rfl

theorem aciaTxAdvance_ovrn (c : Nat) (a : Acia) : (aciaTxAdvance c a).1.ovrn = a.ovrn := by
  simp only [aciaTxAdvance]; split
  · split <;> rfl
  · rfl

/-- A reception that ends may set the flag and never clears it (R176). -/
theorem aciaRxAdvance_ovrn (p : Config.Params) (c : Nat) {a : Acia} (h : a.ovrn = true) :
    (aciaRxAdvance p c a).ovrn = true := by
  simp only [aciaRxAdvance]; split
  · split <;> simp [h]
  · exact h

theorem aciaRxPoll_ovrn (a : Acia) (e : Env) : (aciaRxPoll a e).1.ovrn = a.ovrn := by
  rcases aciaRxPoll_cases a e with heq | ⟨-, -, b, heq⟩ <;> rw [heq]

theorem aciaRead_ovrn (p : Config.Params) (off : Nat) (a : Acia) (e : Env) :
    (aciaRead p off a e).2.1.ovrn = a.ovrn := by
  unfold aciaRead
  split
  · rfl
  · exact aciaDataRead_ovrn a
  · rfl

/-- A register write clears the flag only as a master reset at offset 0 (R171). -/
theorem aciaWrite_ovrn {off : Nat} {d : Byte} (a : Acia) (h : off = 0 → isMasterReset d = false) :
    (aciaWrite off d a).ovrn = a.ovrn := by
  unfold aciaWrite
  split
  · exact aciaControlWrite_ovrn a (h rfl)
  · exact aciaDataWrite_ovrn a d
  · rfl

/-! ## The shared operations -/

/-- If ACIA `k` holds an overrun in `s`, it does in `t`. -/
def OverrunKept (k : Nat) (s t : State) : Prop :=
  ∀ a, s.acias[k]? = some a → a.ovrn = true → ∃ b, t.acias[k]? = some b ∧ b.ovrn = true

theorem overrunKept_of_acias {k : Nat} {s t : State} (h : t.acias = s.acias) : OverrunKept k s t :=
  fun a ha ho => ⟨a, by rwa [h], ho⟩

theorem OverrunKept.refl {k : Nat} (s : State) : OverrunKept k s s := overrunKept_of_acias rfl

theorem OverrunKept.trans {k : Nat} {s t u : State} (h1 : OverrunKept k s t) (h2 : OverrunKept k t u) :
    OverrunKept k s u := fun a ha ho => by
  obtain ⟨b, hb, hbo⟩ := h1 a ha ho
  exact h2 b hb hbo

/-- Putting back an ACIA keeps the overrun of ACIA `k`, if it is another one or the record keeps its flag. -/
theorem overrunKept_of_set {k i : Nat} {s t : State} {a b : Acia} (ha : s.acias[i]? = some a)
    (ht : t.acias = s.acias.set i b) (hb : i = k → a.ovrn = true → b.ovrn = true) : OverrunKept k s t := by
  intro x hx hxo
  rw [ht]
  by_cases hik : i = k
  · subst hik
    rw [ha] at hx
    cases hx
    obtain ⟨hlt, -⟩ := List.getElem?_eq_some_iff.mp ha
    exact ⟨b, List.getElem?_set_self hlt, hb rfl hxo⟩
  · exact ⟨x, by rwa [List.getElem?_set_ne hik], hxo⟩

theorem pRead_overrunKept (k : Nat) (p : PeriphRef) (off : Nat) (s : State) : OverrunKept k s (pRead p off s).2 := by
  rcases periph_cases p s with ⟨i, a, rfl, h⟩ | ⟨i, v, rfl, h⟩ | h
  · rw [pRead_acia h]
    exact overrunKept_of_set h rfl fun _ ho => (aciaRead_ovrn _ off a _).trans ho
  · rw [pRead_via h]
    exact overrunKept_of_acias rfl
  · rw [(periph_absent h off 0 0).1]
    exact .refl s

theorem pWrite_overrunKept {k : Nat} {p : PeriphRef} {off : Nat} {d : Byte} (s : State)
    (hp : p = .acia k → off = 0 → isMasterReset d = false) : OverrunKept k s (pWrite p off d s) := by
  rcases periph_cases p s with ⟨i, a, rfl, h⟩ | ⟨i, v, rfl, h⟩ | h
  · rw [pWrite_acia h]
    exact overrunKept_of_set h rfl fun hik ho => (aciaWrite_ovrn a (hp (hik ▸ rfl))).trans ho
  · rw [pWrite_via h]
    exact overrunKept_of_acias rfl
  · rw [(periph_absent h off 0 d).2.1]
    exact .refl s

theorem pReset_overrunKept {k : Nat} {p : PeriphRef} (s : State) (hp : p ≠ .acia k) :
    OverrunKept k s (pReset p s) := by
  rcases periph_cases p s with ⟨i, a, rfl, h⟩ | ⟨i, v, rfl, h⟩ | h
  · rw [pReset_acia h]
    exact overrunKept_of_set h rfl fun hik _ => absurd (hik ▸ rfl) hp
  · rw [pReset_via h]
    exact overrunKept_of_acias rfl
  · rw [(periph_absent h 0 0 0).2.2.1]
    exact .refl s

theorem aciaTickAt_overrunKept (k : Nat) {i : Nat} (c : Nat) {a : Acia} {s : State} (h : s.acias[i]? = some a) :
    OverrunKept k s (aciaTickAt i c a s) :=
  overrunKept_of_set h rfl fun _ ho =>
    (aciaRxPoll_ovrn _ _).trans (aciaRxAdvance_ovrn _ c ((aciaTxAdvance_ovrn c a).trans ho))

theorem pTick_overrunKept (k : Nat) (p : PeriphRef) (c : Nat) (s : State) : OverrunKept k s (pTick p c s) := by
  rcases periph_cases p s with ⟨i, a, rfl, h⟩ | ⟨i, v, rfl, h⟩ | h
  · rw [pTick_acia h]
    exact aciaTickAt_overrunKept k c h
  · rw [pTick_via h]
    exact overrunKept_of_acias rfl
  · rw [(periph_absent h 0 c 0).2.2.2.1]
    exact .refl s

theorem hubTickAll_overrunKept (k c : Nat) (s : State) : OverrunKept k s (hubTickAll c s) :=
  foldl_relates OverrunKept.refl OverrunKept.trans (fun t (b : Binding) => pTick_overrunKept k b.periph c t) _ s

/-- The resets of a list of bindings that does not name ACIA `k` (R308). -/
theorem resets_overrunKept {k : Nat} : ∀ (l : List Binding) (s : State), (∀ b ∈ l, b.periph ≠ .acia k) →
    OverrunKept k s (l.foldl (fun t b => pReset b.periph t) s)
  | [], s, _ => .refl s
  | b :: rest, s, h =>
    (pReset_overrunKept s (h b List.mem_cons_self)).trans
      (resets_overrunKept rest _ fun c hc => h c (List.mem_cons_of_mem b hc))

theorem busReadAt_overrunKept (k addr : Nat) (s : State) : OverrunKept k s (busReadAt addr s).2 := by
  simp only [busReadAt]
  split
  case h_2 g _ => exact pRead_overrunKept k g.periph _ s
  all_goals exact .refl s

/-- An address resolves to an IO region that covers it, where no ROM image does (R138). -/
theorem resolve_eq_io {r : Router} {a : Nat} {g : IoRegion} (h : resolve r a = .io g) :
    (r.roms.any fun b => romCovers b a) = false ∧ g ∈ r.ios ∧ covers g.start g.stop a = true := by
  simp only [resolve] at h
  split at h
  · cases h
  · next hrom =>
    split at h
    · next hio =>
      cases h
      exact ⟨by simpa using hrom, List.mem_of_find?_eq_some hio,
        List.find?_some (p := fun g : IoRegion => covers g.start g.stop a) hio⟩
    · split at h
      · split at h <;> cases h
      · cases h

/-- A bus write of the command to offset 0 of a region of ACIA `k` is what `isMasterResetWrite` names. -/
theorem isMasterResetWrite_of_resolve {s : State} {k addr v : Nat} {g : IoRegion}
    (hg : resolve s.rtr (reduceAddr addr) = .io g) (hp : g.periph = .acia k) (hoff : reduceAddr addr - g.start = 0)
    (hv : carriesMasterReset v = true) : isMasterResetWrite s k addr v = true := by
  obtain ⟨hrom, hmem, hcov⟩ := resolve_eq_io hg
  have hstart : g.start = reduceAddr addr := by
    simp only [covers, Bool.and_eq_true, decide_eq_true_eq] at hcov
    omega
  have hio : (s.rtr.ios.any fun g => g.periph == .acia k && covers g.start g.stop (reduceAddr addr) &&
      g.start == reduceAddr addr) = true :=
    List.any_eq_true.mpr ⟨g, hmem, by simpa [hp, hcov] using hstart⟩
  rw [reduceAddr] at hrom hio
  rw [isMasterResetWrite, hv, hrom, hio]
  rfl

theorem busWriteAt_overrunKept {k addr v : Nat} {s : State} (h : isMasterResetWrite s k addr v = false) :
    OverrunKept k s (busWriteAt addr v s) := by
  simp only [busWriteAt]
  split
  · exact .refl s
  · next g hg =>
    refine pWrite_overrunKept s fun hp hoff => ?_
    rw [isMasterReset_reduceByte, ← Bool.not_eq_true]
    intro hv
    rw [isMasterResetWrite_of_resolve hg hp hoff hv] at h
    cases h
  · exact overrunKept_of_acias rfl
  · exact .refl s

/-- No access changes which bus writes are master resets: the regions stay. -/
theorem WiringKept.isMasterResetWrite_eq {s t : State} (h : WiringKept s t) (k addr v : Nat) :
    isMasterResetWrite t k addr v = isMasterResetWrite s k addr v := by
  simp only [isMasterResetWrite, h.roms, h.ios]

theorem runAccesses_overrunKept {k : Nat} : ∀ (l : List Access) (s : State),
    (∀ addr v, Access.write addr v ∈ l → isMasterResetWrite s k addr v = false) →
    OverrunKept k s (runAccesses l s).2
  | [], s, _ => .refl s
  | .read addr :: rest, s, h =>
    (busReadAt_overrunKept k addr s).trans <| runAccesses_overrunKept rest _ fun x v hx => by
      rw [(busReadAt_devicesOnly addr s).wiringKept.isMasterResetWrite_eq]
      exact h x v (List.mem_cons_of_mem _ hx)
  | .write addr v :: rest, s, h =>
    (busWriteAt_overrunKept (h addr v List.mem_cons_self)).trans <| runAccesses_overrunKept rest _ fun x w hx => by
      rw [(busWriteAt_wiringKept addr v s).isMasterResetWrite_eq]
      exact h x w (List.mem_cons_of_mem _ hx)

theorem AggOnly.acias {s t : State} (h : AggOnly s t) : t.acias = s.acias := by rw [h]

theorem afterEngine_overrunKept (k c : Nat) (s : State) : OverrunKept k s (afterEngine c s) :=
  (hubTickAll_overrunKept k c s).trans (overrunKept_of_acias (aggUpdateAll_aggOnly _ _).acias)

/-! ## The instructions -/

theorem finish_overrunKept {k : Nat} {s u t : State} {r : Reply} (h : finish u r = .next t)
    (hu : OverrunKept k s u) : OverrunKept k s t := by
  rw [finish_next h]
  exact hu

theorem onAcia_set_overrunKept {k i : Nat} {s t : State} {f : Acia → Acia} {r : Acia → Reply}
    (h : onAcia i s (fun a => finish (setAcia i (f a) s) (r a)) = .next t)
    (hf : i = k → ∀ a, a.ovrn = true → (f a).ovrn = true) : OverrunKept k s t := by
  obtain ⟨a, ha, h⟩ := onAcia_next h
  exact finish_overrunKept h (overrunKept_of_set ha rfl fun hik => hf hik a)

theorem viaReadOp_acias {i : Nat} {s t : State} {f : Via → Byte × Via} (h : viaReadOp i s f = .next t) :
    t.acias = s.acias := by
  obtain ⟨v, -, rfl⟩ := viaReadOp_next h
  rfl

theorem viaWriteOp_acias {i : Nat} {s t : State} {f : Via → Via} (h : viaWriteOp i s f = .next t) :
    t.acias = s.acias := by
  obtain ⟨v, -, rfl⟩ := viaWriteOp_next h
  rfl

/-- Every operation but those that may reset the ACIA keeps its overrun. -/
theorem exec_overrunKept {i : Instr} {s t : State} {k : Nat} (hi : mayResetAcia s k i = false)
    (h : exec i s = .next t) : OverrunKept k s t := by
  cases i with
  | busRead addr => exact finish_overrunKept h (busReadAt_overrunKept k addr s)
  | busWrite addr v => exact finish_overrunKept h (busWriteAt_overrunKept hi)
  | aciaCtrlW j v =>
    refine onAcia_set_overrunKept h fun hjk a ho => (aciaControlWrite_ovrn a ?_).trans ho
    rw [isMasterReset_eq]
    simpa [mayResetAcia, hjk] using hi
  | aciaRdrR => exact onAcia_set_overrunKept h fun _ a ho => (aciaDataRead_ovrn a).trans ho
  | aciaTdrW _ v => exact onAcia_set_overrunKept h fun _ a ho => (aciaDataWrite_ovrn a v).trans ho
  | aciaReset j =>
    have hjk : j ≠ k := by simpa [mayResetAcia] using hi
    exact onAcia_set_overrunKept h fun heq => absurd heq hjk
  | aciaTick _ c =>
    obtain ⟨a, ha, h⟩ := onAcia_next h
    exact finish_overrunKept h (aciaTickAt_overrunKept k c ha)
  | aciaStatusR | aciaUndefR | aciaUndefW | aciaIrq =>
    obtain ⟨a, -, h⟩ := onAcia_next h
    exact finish_overrunKept h (overrunKept_of_acias rfl)
  | viaOrbR | viaOraR | viaDdrbR | viaDdraR | viaT1clR | viaT1chR | viaT1llR | viaT1lhR | viaT2clR | viaT2chR
  | viaSrR | viaAcrR | viaPcrR | viaIfrR | viaIerR | viaOranhR => exact overrunKept_of_acias (viaReadOp_acias h)
  | viaOrbW | viaOraW | viaDdrbW | viaDdraW | viaT1clW | viaT1chW | viaT1llW | viaT1lhW | viaT2clW | viaT2chW
  | viaSrW | viaAcrW | viaPcrW | viaIfrW | viaIerW | viaOranhW
  | viaTick | viaReset => exact overrunKept_of_acias (viaWriteOp_acias h)
  | viaUndefR | viaUndefW | viaIrq =>
    obtain ⟨v, -, h⟩ := onVia_next h
    exact finish_overrunKept h (.refl s)
  | rtrConfigRam | rtrLoadRom | rtrClearRam | hubUnregister | hubCollect | aggClrNmi | aggReset | aggIrqPend
  | aggNmiPend => exact finish_overrunKept h (overrunKept_of_acias rfl)
  | rtrMapIo =>
    obtain ⟨-, ⟨-, rfl⟩ | ⟨-, rfl⟩⟩ := execRtrMapIo_next h <;> exact overrunKept_of_acias rfl
  | hubRegister =>
    obtain ⟨-, ⟨_, -, rfl⟩ | ⟨-, rfl⟩⟩ := execHubRegister_next h <;> exact overrunKept_of_acias rfl
  | sysAttach =>
    obtain ⟨-, ⟨_, -, rfl⟩ | ⟨-, rfl⟩⟩ := execSysAttach_next h <;> exact overrunKept_of_acias rfl
  | sysDetach =>
    obtain ⟨_, -, rfl⟩ | ⟨-, rfl⟩ := execSysDetach_next h <;> exact overrunKept_of_acias rfl
  | hubTick c => exact finish_overrunKept h (hubTickAll_overrunKept k c s)
  | aggTrigIrq src => exact finish_overrunKept h (overrunKept_of_acias (raiseIrq_acias src s))
  | aggTrigNmi src => exact finish_overrunKept h (overrunKept_of_acias (raiseNmi_acias src s))
  | aggClrIrq src => exact finish_overrunKept h (overrunKept_of_acias (dropIrq_acias src s))
  | aggUpdate act => exact finish_overrunKept h (overrunKept_of_acias (aggUpdateAll_aggOnly act s).acias)
  | sysStep l c =>
    have hrun : OverrunKept k s (runAccesses l s).2 := runAccesses_overrunKept l s fun addr v hmem => by
      simpa using List.any_eq_false.mp hi _ hmem
    obtain ⟨-, rfl⟩ | ⟨-, rfl⟩ := execSysStep_next h
    · exact hrun
    · exact hrun.trans (afterEngine_overrunKept k c _)
  | sysReset =>
    have hbound : ∀ b ∈ s.hub.bindings, b.periph ≠ .acia k := by simpa [mayResetAcia] using hi
    exact finish_overrunKept h (resets_overrunKept s.hub.bindings s hbound)

/-- Settles O16: by `exec_overrunKept`. -/
theorem overrunStaysUntilReset : Obligations.OverrunStaysUntilReset :=
  fun _ _ _ _ a ha ho hi h => exec_overrunKept hi h a ha ho

end Sys2Proof.Machine
end

section
/-! SUPPORT. The ACIA's status byte (R32, R172), bit by bit, and the interrupt condition (R178) in numbers. -/

namespace Sys2Proof.Machine

theorem flagByte_bit (flag : Bool) (mask : Byte) {j : Nat} (h : j < 8) :
    (flagByte flag mask)[j] = (flag && mask[j]) := by
  cases flag <;> simp [flagByte]

/-- The eight flags of the status byte, from bit 0 up (R172, D9, D21). -/
theorem aciaStatusByte_bits (p : Config.Params) (a : Acia) (ready : Bool) :
    let x := aciaStatusByte p a ready
    x.getLsbD 0 = rdrf a ∧ x.getLsbD 1 = tdre a ∧ x.getLsbD 2 = (ready ^^ p.ctsDcdInvert) ∧
    x.getLsbD 3 = (ready ^^ p.ctsDcdInvert) ∧ x.getLsbD 4 = a.fe ∧ x.getLsbD 5 = a.ovrn ∧ x.getLsbD 6 = a.pe ∧
    x.getLsbD 7 = aciaIrqCond p a := by
  simp [aciaStatusByte, flagByte_bit]

theorem rdrf_iff (a : Acia) : rdrf a = true ↔ a.rxq ≠ [] := by simp [rdrf]

theorem tdre_iff (a : Acia) : tdre a = true ↔ a.txActive = false := by simp [tdre]

/-- The interrupt condition in the numbers of the control byte's fields (R31, R178). -/
theorem aciaIrqCond_iff (p : Config.Params) (a : Acia) : aciaIrqCond p a = true ↔ aciaInterrupts p a := by
  have hfield : ∀ m : BitVec 2, m = transmitControl a.control ↔ m.toNat = a.control.toNat / 32 % 4 := fun m => by
    simp [← BitVec.toNat_inj, transmitControl, Nat.shiftRight_eq_div_pow]
  have hselect : transmitControl a.control ∈ p.txIrqSelect ↔
      ∃ m ∈ p.txIrqSelect, m.toNat = a.control.toNat / 32 % 4 := by
    simp only [← hfield, exists_eq_right]
  simp only [aciaIrqCond, aciaInterrupts, Bool.or_eq_true, Bool.and_eq_true, List.contains_iff_mem, hselect, rdrf_iff,
    tdre_iff, receiveIrqEnabled]

/-- A status read asks a bound port once, whose next answer comes first off the list (R172, log entry 5). -/
theorem aciaStatusRead_eq (p : Config.Params) (a : Acia) (e : Env) :
    ∃ ready, (aciaStatusRead p a e).1 = aciaStatusByte p a ready ∧
      (a.port = none → ready = false ∧ (aciaStatusRead p a e).2 = e) ∧
      (a.port ≠ none → ∀ b rest, e.ready = b :: rest →
        ready = b ∧ (aciaStatusRead p a e).2 = { e with ready := rest }) := by
  cases hport : a.port with
  | none => exact ⟨false, by simp [aciaStatusRead, hport]⟩
  | some k =>
    refine ⟨(askReady k e).1, by simp [aciaStatusRead, hport], nofun, fun _ b rest hready => ?_⟩
    simp [aciaStatusRead, hport, askReady, hready]

/-- Settles O32: the byte's bits and the question to the port. -/
theorem statusReadShowsTheFlags : Obligations.StatusReadShowsTheFlags := by
  intro s i a ha
  obtain ⟨ready, hbyte, hnone, hasked⟩ := aciaStatusRead_eq s.params a s.env
  obtain ⟨h0, h1, h2, h3, h4, h5, h6, h7⟩ := aciaStatusByte_bits s.params a ready
  refine ⟨aciaStatusByte s.params a ready, ready, (aciaStatusRead s.params a s.env).2, ?_, hnone, hasked, ?_⟩
  · simp only [exec, execAciaStatusR, onAcia_eq ha, finish_eq, hbyte]
  · simp only [h0, h1, h2, h3, h4, h5, h6, h7, rdrf_iff, tdre_iff, aciaIrqCond_iff, Bool.xor_iff_ne, ne_eq,
      and_self]

end Sys2Proof.Machine
end

section
/-! SUPPORT. The RAM under every operation (R76, R130, R135, R141, R305): only a store and the management of the block
reach it. -/

namespace Sys2Proof.Machine

/-- A byte of RAM is a matter of the RAM block alone. -/
theorem ramByte_congr {s t : State} (h : t.rtr.ram = s.rtr.ram) (a : Nat) : ramByte t a = ramByte s a := by
  simp only [ramByte, h]

theorem withRom_ram (data : List Byte) (start : Nat) (r : Router) : (withRom data start r).ram = r.ram := by
  simp only [withRom]; split <;> rfl

theorem AggOnly.rtr {s t : State} (h : AggOnly s t) : t.rtr = s.rtr := by rw [h]

theorem afterEngine_rtr (c : Nat) (s : State) : (afterEngine c s).rtr = s.rtr :=
  (aggUpdateAll_aggOnly _ _).rtr.trans (devicesOnly_rtr (hubTickAll_devicesOnly c s))

/-- Accesses that are all reads reach nothing but peripherals (R140, R305). -/
theorem runAccesses_devicesOnly : ∀ (l : List Access) (s : State), l.any isWrite = false →
    DevicesOnly s (runAccesses l s).2
  | [], s, _ => .refl s
  | .read addr :: rest, s, h =>
    (busReadAt_devicesOnly addr s).trans (runAccesses_devicesOnly rest _ (by simpa [isWrite] using h))
  | .write _ _ :: _, _, h => by simp [isWrite] at h

/-- An operation keeps the RAM block if the state it ends in has the router it began with. -/
theorem finish_ram {s u t : State} {r : Reply} (h : finish u r = .next t) (hu : u.rtr = s.rtr) :
    t.rtr.ram = s.rtr.ram := by
  rw [finish_next h]
  exact congrArg Router.ram hu

/-- Every operation but stores and the management of the RAM block keeps the block. -/
theorem exec_ram {i : Instr} {s t : State} (hram : mayChangeRam i = false) (h : exec i s = .next t) :
    t.rtr.ram = s.rtr.ram := by
  cases hi : reachesOnlyDevices i with
  | true =>
    obtain ⟨u, r, hu, ht⟩ := exec_devices hi h
    rw [ht, devicesOnly_rtr hu]
  | false =>
    cases i with
    | busWrite | rtrConfigRam | rtrClearRam => cases hram
    | rtrLoadRom data start =>
      rw [finish_next h]
      exact withRom_ram data start s.rtr
    | rtrMapIo => obtain ⟨-, ⟨-, rfl⟩ | ⟨-, rfl⟩⟩ := execRtrMapIo_next h <;> rfl
    | hubRegister => obtain ⟨-, ⟨_, -, rfl⟩ | ⟨-, rfl⟩⟩ := execHubRegister_next h <;> rfl
    | sysAttach => obtain ⟨-, ⟨_, -, rfl⟩ | ⟨-, rfl⟩⟩ := execSysAttach_next h <;> rfl
    | sysDetach => obtain ⟨_, -, rfl⟩ | ⟨-, rfl⟩ := execSysDetach_next h <;> rfl
    | hubUnregister | aggClrNmi | aggReset => exact finish_ram h rfl
    | aggTrigIrq src => exact finish_ram h (raiseIrq_rtr src s)
    | aggTrigNmi src => exact finish_ram h (raiseNmi_rtr src s)
    | aggClrIrq src => exact finish_ram h (dropIrq_rtr src s)
    | aggUpdate act => exact finish_ram h (aggUpdateAll_aggOnly act s).rtr
    | sysStep l c =>
      have hrun := devicesOnly_rtr (runAccesses_devicesOnly l s hram)
      obtain ⟨-, rfl⟩ | ⟨-, rfl⟩ := execSysStep_next h
      · exact congrArg Router.ram hrun
      · exact congrArg Router.ram ((afterEngine_rtr c _).trans hrun)
    | sysReset =>
      have hbound := devicesOnly_rtr (resetBound_devicesOnly s)
      exact finish_ram h hbound
    | _ => cases hi

/-- Settles O10: by `exec_ram`, of which every byte is a consequence. -/
theorem ramChangesOnlyByStoresAndItsManagement : Obligations.RamChangesOnlyByStoresAndItsManagement :=
  fun _ _ _ hi h => ⟨exec_ram hi h, ramByte_congr (exec_ram hi h)⟩

end Sys2Proof.Machine
end

section
/-! SUPPORT. Bus accesses: what an address resolves to (R138), and what the access then is (R140, R141, R144). -/

namespace Sys2Proof.Machine

/-! ## Resolution, from the regions that cover the address -/

theorem find?_rom_eq_none {s : State} {a : Nat} (h : ¬ romCovered s a) :
    s.rtr.roms.find? (fun b => romCovers b a) = none := by
  simpa [romCovers] using h

theorem find?_io_eq_none {s : State} {a : Nat} (h : ¬ ioCovered s a) :
    s.rtr.ios.find? (fun g => covers g.start g.stop a) = none := by
  simpa [covers] using h

/-- Of disjoint regions in rising order, the one that covers an address is the first that does (R28). -/
theorem find?_io_eq_some {a : Nat} {g : IoRegion} (hlo : g.start ≤ a) (hhi : a ≤ g.stop) {l : List IoRegion}
    (hdisj : l.Pairwise fun x y => x.stop < y.start) (hg : g ∈ l) :
    l.find? (fun g => covers g.start g.stop a) = some g := by
  induction l with
  | nil => cases hg
  | cons x xs ih =>
    obtain ⟨hx, hxs⟩ := List.pairwise_cons.mp hdisj
    rcases List.mem_cons.mp hg with rfl | hg
    · exact List.find?_cons_of_pos (by simp [covers, hlo, hhi])
    · have hbefore := hx g hg
      rw [List.find?_cons_of_neg (by simp [covers]; omega)]
      exact ih hxs hg

/-- Where no ROM image covers an address, the IO region that does takes it (R138). -/
theorem resolve_io {s : State} {a : Nat} {g : IoRegion} (hwf : routerWf s.rtr) (hrom : ¬ romCovered s a)
    (hg : g ∈ s.rtr.ios) (hlo : g.start ≤ a) (hhi : a ≤ g.stop) : resolve s.rtr a = .io g := by
  obtain ⟨-, -, hdisj, -⟩ := hwf
  simp only [resolve, find?_rom_eq_none hrom, find?_io_eq_some hlo hhi hdisj hg]

/-- Where no ROM image and no IO region covers an address of the RAM block, the block takes it (R138). -/
theorem resolve_ram {s : State} {a : Nat} {m : RamBlock} (hrom : ¬ romCovered s a) (hio : ¬ ioCovered s a)
    (hm : s.rtr.ram = some m) (hlo : m.base ≤ a) (hhi : a < m.base + m.size) : resolve s.rtr a = .ram m := by
  simp [resolve, find?_rom_eq_none hrom, find?_io_eq_none hio, hm, ramCovers, hlo, hhi]

/-! ## Accesses to RAM -/

/-- A bus read that resolves to RAM gives the byte and changes nothing else (R140, R142). -/
theorem exec_busRead_ram {s : State} {addr : Nat} {m : RamBlock} {b : Byte}
    (h : resolve s.rtr (reduceAddr addr) = .ram m) (hb : m.bytes.read (reduceAddr addr) = b) :
    exec (.busRead addr) s = .next { s with reply := .byte b } := by
  simp only [exec, execBusRead, busReadAt, h, hb, finish_eq]

/-- A bus write that resolves to RAM stores the byte in the block and changes nothing else (R141, R142). -/
theorem exec_busWrite_ram {s : State} {addr v : Nat} {m : RamBlock}
    (h : resolve s.rtr (reduceAddr addr) = .ram m) :
    exec (.busWrite addr v) s = .next { s with
      rtr := { s.rtr with ram := some { m with bytes := m.bytes.write (reduceAddr addr) (reduceByte v) } }
      reply := .unit } := by
  simp only [exec, execBusWrite, busWriteAt, h, finish_eq]

/-- `RTR.CONFIGRAM` of a size above 0 installs an empty block (R130, D3). -/
theorem exec_rtrConfigRam {s : State} {start size : Nat} (h : 1 ≤ size) :
    exec (.rtrConfigRam start size) s = .next { s with
      rtr := { s.rtr with ram := some { base := start, size := size, bytes := [] } }
      reply := .unit } := by
  simp only [exec, execRtrConfigRam, withFreshRam, h, if_true, finish_eq]

/-- Operations one after another, from the first one's outcome (R74). -/
theorem runAll_of_next {i : Instr} {rest : List Instr} {s t u : State} {replies : List Reply}
    (h : exec i s = .next t) (hrest : runAll rest t = some (replies, u)) :
    runAll (i :: rest) s = some (t.reply :: replies, u) := by
  simp only [runAll, h, hrest]

/-- Settles O22: the fresh block takes the address at the write and at the read, and a read after a write to the same
address gives the byte written. -/
theorem ramHoldsWhatIsWritten : Obligations.RamHoldsWhatIsWritten := by
  intro s start size addr v hlo hhi haddr hrom hio
  have hred : reduceAddr addr = addr := Nat.mod_eq_of_lt haddr
  rw [← hred] at hlo hhi hrom hio
  have hbyte : (Memory.write [] (reduceAddr addr) (reduceByte v)).read (reduceAddr addr) = BitVec.ofNat 8 v :=
    read_write_same _ _ [] nil_wf
  have hresolve : ∀ bytes : Memory, resolve { s.rtr with ram := some ⟨start, size, bytes⟩ } (reduceAddr addr) =
      .ram ⟨start, size, bytes⟩ := fun bytes =>
    resolve_ram (s := { s with rtr := { s.rtr with ram := some ⟨start, size, bytes⟩ } }) hrom hio rfl hlo hhi
  exact ⟨_, runAll_of_next (exec_rtrConfigRam (by omega)) <|
    runAll_of_next (exec_busWrite_ram (hresolve [])) <| runAll_of_next (exec_busRead_ram (hresolve _) hbyte) rfl⟩

/-! ## Accesses to a peripheral -/

/-- A register write changes nothing but the instances (R310). -/
theorem pWrite_instancesOnly (p : PeriphRef) (off : Nat) (d : Byte) (s : State) :
    ∃ acias vias, pWrite p off d s = { s with acias := acias, vias := vias } := by
  rcases periph_cases p s with ⟨i, a, rfl, h⟩ | ⟨i, v, rfl, h⟩ | h
  · exact ⟨_, _, pWrite_acia h off d⟩
  · exact ⟨_, _, pWrite_via h off d⟩
  · exact ⟨_, _, (periph_absent h off 0 d).2.1⟩

/-- The ACIA write that an offset selects is the contract's register write (R170). -/
theorem exec_decodeAcia_write {i : Nat} {s : State} {a : Acia} (h : s.acias[i]? = some a) (off : Half) (d : Byte) :
    exec (decodeAcia true i off d) s = .next { setAcia i (aciaWrite off.toNat d a) s with reply := .unit } := by
  simp only [decodeAcia]
  generalize off.toNat = n
  match n with
  | 0 => exact onAcia_eq h _
  | 1 => exact onAcia_eq h _
  | n + 2 => simp only [exec, execAciaUndefW, onAcia_eq h, finish_eq, aciaWrite, setAcia_self h]

/-- The VIA write that an offset selects is the contract's register write (R210). -/
theorem exec_decodeViaWrite {i : Nat} {s : State} {v : Via} (h : s.vias[i]? = some v) (off : Half) (d : Byte) :
    exec (decodeViaWrite i off d) s = .next { setVia i (viaWrite off.toNat d v) s with reply := .unit } := by
  simp only [decodeViaWrite]
  generalize off.toNat = n
  split
  case h_17 => simp only [exec, execViaUndefW, onVia_eq h, finish_eq, viaWrite, setVia_self h]
  all_goals exact viaWriteOp_eq h _

/-- The write operation that an offset selects is the contract's register write (R105, R170, R210). -/
theorem exec_writeOp {p : PeriphRef} {s : State} {off : Nat} (hp : periphExists s p = true) (hoff : off < 65536)
    (d : Byte) : exec (writeOp p off d) s = .next { pWrite p off d s with reply := .unit } := by
  have hnat : (BitVec.ofNat 16 off).toNat = off := by simpa using Nat.mod_eq_of_lt hoff
  rcases periph_cases p s with ⟨i, a, rfl, h⟩ | ⟨i, v, rfl, h⟩ | h
  · rw [writeOp, exec_decodeAcia_write h, hnat, pWrite_acia h]
  · rw [writeOp, exec_decodeViaWrite h, hnat, pWrite_via h]
  · rw [hp] at h
    cases h

/-- A bus write that resolves to an IO region is the register write at the address's offset in it (R105, R141, R144). -/
theorem exec_busWrite_io {s : State} {addr v : Nat} {g : IoRegion} (h : resolve s.rtr (reduceAddr addr) = .io g) :
    exec (.busWrite addr v) s =
      .next { pWrite g.periph (reduceAddr addr - g.start) (reduceByte v) s with reply := .unit } := by
  simp only [exec, execBusWrite, busWriteAt, h, finish_eq]

/-- Settles O20: the region takes the address, and both operations are the contract's register write. -/
theorem busWriteOfPeripheralIsItsRegisterWrite : Obligations.BusWriteOfPeripheralIsItsRegisterWrite := by
  intro s addr v g hwf hrom hg hlo hhi
  obtain ⟨-, -, -, hrouter, -, ⟨hrefs, -⟩, -⟩ := hwf
  have hbus := exec_busWrite_io (v := v) (resolve_io hrouter hrom hg hlo hhi)
  have hoff : reduceAddr addr - g.start < 65536 := Nat.lt_of_le_of_lt (Nat.sub_le _ _) (Nat.mod_lt addr (by decide))
  refine ⟨hbus.trans (exec_writeOp (hrefs g hg) hoff _).symm, _, hbus, ?_⟩
  obtain ⟨acias, vias, hw⟩ := pWrite_instancesOnly g.periph (reduceAddr addr - g.start) (reduceByte v) s
  rw [hw]
  exact ⟨rfl, rfl, rfl, rfl, rfl⟩

/-! ## The side effects of a bus read -/

/-- An ACIA register read changes the ACIA at offset 1 alone (R174). -/
theorem aciaRead_keeps {off : Nat} (h : off ≠ 1) (p : Config.Params) (a : Acia) (e : Env) :
    (aciaRead p off a e).2.1 = a := by
  unfold aciaRead
  split
  · rfl
  · exact absurd rfl h
  · rfl

/-- A VIA register read changes the VIA at offsets 4 and 8 alone (R219, R227). -/
theorem viaRead_keeps {off : Nat} (h4 : off ≠ 4) (h8 : off ≠ 8) (p : Config.Params) (v : Via) :
    (viaRead p off v).2 = v := by
  unfold viaRead
  split
  case h_5 => exact absurd rfl h4
  case h_9 => exact absurd rfl h8
  all_goals rfl

/-- A register read at any other offset moves nothing but the oracle's place. -/
theorem pRead_envOnly {p : PeriphRef} {off : Nat} (s : State) (hacia : ∀ i, p = .acia i → off ≠ 1)
    (hvia : ∀ i, p = .via i → off ≠ 4 ∧ off ≠ 8) : ∃ e, (pRead p off s).2 = { s with env := e } := by
  rcases periph_cases p s with ⟨i, a, rfl, h⟩ | ⟨i, v, rfl, h⟩ | h
  · rw [pRead_acia h, aciaRead_keeps (hacia i rfl), setAcia_self h]
    exact ⟨_, rfl⟩
  · obtain ⟨h4, h8⟩ := hvia i rfl
    rw [pRead_via h, viaRead_keeps h4 h8, setVia_self h]
    exact ⟨_, rfl⟩
  · rw [(periph_absent h off 0 0).1]
    exact ⟨_, rfl⟩

/-- Settles O21: a read reaches a peripheral only through a region that covers its address, and memory answers without a
change. -/
theorem busReadHasOnlyTheListedSideEffects : Obligations.BusReadHasOnlyTheListedSideEffects := by
  intro s t addr h hoff
  have henv : ∃ e, (busReadAt addr s).2 = { s with env := e } := by
    simp only [busReadAt]
    split
    case h_2 g hg =>
      obtain ⟨-, hmem, hcov⟩ := resolve_eq_io hg
      simp only [covers, Bool.and_eq_true, decide_eq_true_eq] at hcov
      obtain ⟨hacia, hvia⟩ := hoff g hmem hcov.1 hcov.2
      exact pRead_envOnly s hacia hvia
    all_goals exact ⟨_, rfl⟩
  obtain ⟨e, he⟩ := henv
  rw [finish_next h, he]

end Sys2Proof.Machine
end

section
/-! SUPPORT. A step takes the first presented request and runs it (R74, R82). -/

namespace Sys2Proof.Machine

theorem step_of_request {s : State} {r : Request} {rest : List Request} (h : s.requests = r :: rest) :
    step s = runRequest r { s with requests := rest } := by
  simp only [step, nextRequest, h]

theorem step_of_no_request {s : State} (h : s.requests = []) : step s = .next s := by
  simp only [step, nextRequest, h]

theorem runRequest_of_decode {r : Request} {i : Instr} (h : decode r = .ok i) (s : State) :
    runRequest r s = exec i s := by
  simp only [runRequest, h]

theorem decodeTableWord_eq_some {nbits w : Nat} {i : Instr} (h : decodeTableWord nbits w = some i) :
    decode (tableRequest nbits w) = .ok i := by
  simp only [decodeTableWord] at h
  split at h
  · next hdec =>
    cases h
    exact hdec
  · cases h

/-- Taking the request just presented gives back the state it was presented to. -/
theorem step_withFetchWord (s : State) (nbits w : Nat) :
    step (s.withFetchWord nbits w) = runRequest (tableRequest nbits w) s :=
  step_of_request (presentFirst_requests _ s)

/-- Settles O5: the request is taken, then decoded, then run. -/
theorem stepRunsThePresentedOperation : Obligations.StepRunsThePresentedOperation :=
  ⟨fun _ _ _ _ hreq hdec => (step_of_request hreq).trans (runRequest_of_decode hdec _),
   fun s nbits w _ hdec =>
    (step_withFetchWord s nbits w).trans (runRequest_of_decode (decodeTableWord_eq_some hdec) s),
   fun _ hreq => step_of_no_request hreq⟩

end Sys2Proof.Machine
end

section
/-! SUPPORT. The packed words (R101 to R103): what a field of a word is in numbers, what the decoder reads from a packed
word, and which words it accepts. -/

namespace Sys2Proof

/-! ## Fields of a word -/

/-- A field in numbers: the word shifted down by `lo`, of which `n` bits are kept (R13). -/
@[simp] theorem wordField_toNat (w : OpWord) (lo n : Nat) :
    (wordField w lo n).toNat = w.toNat / 2 ^ lo % 2 ^ n := by
  simp [wordField, Nat.shiftRight_eq_div_pow]

/-- The bits of a word from `lo` up, as a number. -/
theorem wordField_top_toNat (w : OpWord) {lo n : Nat} (h : lo + n = 32) :
    (wordField w lo n).toNat = w.toNat / 2 ^ lo := by
  have hw : w.toNat < 2 ^ lo * 2 ^ n := by
    rw [← pow_add, h]
    exact w.isLt
  rw [wordField_toNat, Nat.mod_eq_of_lt (Nat.div_lt_of_lt_mul hw)]

/-- The bits of a word from `lo` up are zero exactly when the word fits below them. -/
theorem wordField_top_eq_zero_iff (w : OpWord) {lo n : Nat} (h : lo + n = 32) :
    wordField w lo n = 0 ↔ w.toNat < 2 ^ lo := by
  rw [BitVec.toNat_eq, wordField_top_toNat w h]
  exact Nat.div_eq_zero_iff_lt (Nat.two_pow_pos lo)

/-- The write bit in numbers: bit 24 is the parity of the word shifted down by 24. -/
theorem writeBit_of_toNat {w : OpWord} {write : Bool} (h : w.toNat / 2 ^ 24 % 2 = write.toNat) :
    w.getLsbD 24 = write := by
  rw [BitVec.getLsbD, Nat.testBit_eq_decide_div_mod_eq, h]
  cases write <;> rfl

/-! ## Format B -/

theorem packB_toNat {write : Bool} {addr data : Nat} (ha : addr < 2 ^ 16) (hd : data < 2 ^ 8) :
    (packB write addr data).toNat = write.toNat * 2 ^ 24 + addr * 2 ^ 8 + data := by
  have hw := Bool.toNat_le write
  rw [packB, BitVec.toNat_ofNat, Nat.mod_eq_of_lt (by omega)]

/-- The decoder reads the three fields of a format B word back (R101). -/
theorem decodeB_packB {write : Bool} {addr data : Nat} (ha : addr < 2 ^ 16) (hd : data < 2 ^ 8) :
    decodeB (packB write addr data) = .ok (if write then .busWrite addr data else .busRead addr) := by
  have hn := packB_toNat (write := write) ha hd
  have hw := Bool.toNat_le write
  have htop : wordField (packB write addr data) 25 7 = 0 :=
    (wordField_top_eq_zero_iff _ rfl).mpr (by omega)
  have haddr : (wordField (packB write addr data) 8 16).toNat = addr := by
    rw [wordField_toNat]; omega
  have hdata : (wordField (packB write addr data) 0 8).toNat = data := by
    rw [wordField_toNat]; omega
  have hwrite : (packB write addr data).getLsbD 24 = write := writeBit_of_toNat (by omega)
  simp only [decodeB, htop, haddr, hdata, hwrite, bne_self_eq_false, Bool.false_eq_true, if_false]
  cases write <;> rfl

/-! ## Format P -/

/-- The register operation that the fields of a format P word name (R102). -/
def registerOp (chip write : Bool) (inst : Nat) (off : Half) (d : Byte) : Instr :=
  if chip then (if write then decodeViaWrite inst off d else decodeViaRead inst off) else decodeAcia write inst off d

theorem packP_toNat (chip write : Bool) {off : Nat} (d : Byte) (ho : off < 2 ^ 16) :
    (packP chip write off d).toNat = chip.toNat * 2 ^ 25 + write.toNat * 2 ^ 24 + off * 2 ^ 8 + d.toNat := by
  have hc := Bool.toNat_le chip
  have hw := Bool.toNat_le write
  rw [packP, BitVec.toNat_ofNat, Nat.mod_eq_of_lt (by omega)]

/-- The decoder reads the four fields of a format P word back (R102). -/
theorem decode_requestP (chip write : Bool) (inst : Nat) {off : Nat} (d : Byte) (ho : off < 2 ^ 16) :
    decode (requestP chip write inst off d) = .ok (registerOp chip write inst (BitVec.ofNat 16 off) d) := by
  have hn := packP_toNat chip write d ho
  have hw := Bool.toNat_le write
  have hchip : (wordField (packP chip write off d) 25 7).toNat = chip.toNat := by
    rw [wordField_top_toNat _ rfl]; omega
  have hoff : wordField (packP chip write off d) 8 16 = BitVec.ofNat 16 off := by
    apply BitVec.eq_of_toNat_eq
    rw [wordField_toNat, BitVec.toNat_ofNat]; omega
  have hd : wordField (packP chip write off d) 0 8 = d := by
    apply BitVec.eq_of_toNat_eq
    rw [wordField_toNat]; omega
  have hwrite : (packP chip write off d).getLsbD 24 = write := by
    have hc := Bool.toNat_le chip
    exact writeBit_of_toNat (by omega)
  simp only [decode, requestP, decodeP, hchip, hoff, hd, hwrite]
  cases chip <;> rfl

/-- Beyond its registers an ACIA offset selects the catch-all rows (R102). -/
theorem decodeAcia_beyond {off : Half} (h : beyondSpan 2 off = true) (write : Bool) (inst : Nat) (d : Byte) :
    decodeAcia write inst off d = if write then .aciaUndefW inst off d else .aciaUndefR inst off := by
  obtain ⟨n, hn⟩ := Nat.exists_eq_add_of_le' (of_decide_eq_true h)
  cases write <;> simp only [decodeAcia, hn] <;> rfl

/-- Beyond its registers a VIA offset selects the catch-all read (R102). -/
theorem decodeViaRead_beyond {off : Half} (h : beyondSpan 16 off = true) (inst : Nat) :
    decodeViaRead inst off = .viaUndefR inst off := by
  obtain ⟨n, hn⟩ := Nat.exists_eq_add_of_le' (of_decide_eq_true h)
  simp only [decodeViaRead, hn]

/-- Beyond its registers a VIA offset selects the catch-all write (R102). -/
theorem decodeViaWrite_beyond {off : Half} (h : beyondSpan 16 off = true) (inst : Nat) (d : Byte) :
    decodeViaWrite inst off d = .viaUndefW inst off d := by
  obtain ⟨n, hn⟩ := Nat.exists_eq_add_of_le' (of_decide_eq_true h)
  simp only [decodeViaWrite, hn]

/-- A catch-all operation is encoded with its own offset, and the decoder reads that offset back (R102). -/
theorem decode_requestP_of_registerOp {chip write : Bool} {inst : Nat} {off : Half} {d : Byte} {i : Instr}
    (h : registerOp chip write inst off d = i) : decode (requestP chip write inst off.toNat d) = .ok i := by
  rw [decode_requestP chip write inst d off.isLt, BitVec.ofNat_toNat, BitVec.setWidth_eq, h]

/-! ## Decode and encode -/

/-- Settles O1: format by format; a format M word is a listed selector, which the decoder looks up. -/
theorem decodeInvertsEncode : Obligations.DecodeInvertsEncode := by
  intro i hwf
  cases i with
  | busRead addr =>
    have haddr : addr < 2 ^ 16 := of_decide_eq_true hwf
    exact decodeB_packB haddr (by decide)
  | busWrite addr v =>
    have hfits : addr < 2 ^ 16 ∧ v < 2 ^ 8 := by simpa [Instr.wf, fitsAddr, fitsData] using hwf
    exact decodeB_packB hfits.1 hfits.2
  | aciaUndefR inst off => exact decode_requestP_of_registerOp (decodeAcia_beyond hwf false inst 0)
  | aciaUndefW inst off v => exact decode_requestP_of_registerOp (decodeAcia_beyond hwf true inst v)
  | viaUndefR inst off => exact decode_requestP_of_registerOp (decodeViaRead_beyond hwf inst)
  | viaUndefW inst off d => exact decode_requestP_of_registerOp (decodeViaWrite_beyond hwf inst d)
  | aciaStatusR | aciaCtrlW | aciaRdrR | aciaTdrW
  | viaOrbR | viaOraR | viaDdrbR | viaDdraR | viaT1clR | viaT1chR | viaT1llR | viaT1lhR | viaT2clR | viaT2chR
  | viaSrR | viaAcrR | viaPcrR | viaIfrR | viaIerR | viaOranhR
  | viaOrbW | viaOraW | viaDdrbW | viaDdraW | viaT1clW | viaT1chW | viaT1llW | viaT1lhW | viaT2clW | viaT2chW
  | viaSrW | viaAcrW | viaPcrW | viaIfrW | viaIerW | viaOranhW => exact decode_requestP _ _ _ _ (by decide)
  | rtrConfigRam | rtrLoadRom | rtrMapIo | rtrClearRam | hubRegister | hubUnregister | hubTick | hubCollect
  | aciaTick | aciaReset | aciaIrq | viaTick | viaReset | viaIrq
  | aggTrigIrq | aggTrigNmi | aggClrIrq | aggClrNmi | aggUpdate | aggReset | aggIrqPend | aggNmiPend
  | sysStep | sysReset | sysAttach | sysDetach => simp [encode, requestM, decode, decodeM, wordField]

/-! ## What the decoder accepts -/

theorem beyondSpan_of_le {span : Nat} {off : Half} (h : span ≤ off.toNat) : beyondSpan span off = true :=
  decide_eq_true h

theorem decodeAcia_wf (write : Bool) (inst : Nat) (off : Half) (d : Byte) :
    (decodeAcia write inst off d).wf = true := by
  unfold decodeAcia
  split
  case h_5 | h_6 => exact beyondSpan_of_le (by grind)
  all_goals rfl

theorem decodeViaRead_wf (inst : Nat) (off : Half) : (decodeViaRead inst off).wf = true := by
  unfold decodeViaRead
  split
  case h_17 => exact beyondSpan_of_le (by grind)
  all_goals rfl

theorem decodeViaWrite_wf (inst : Nat) (off : Half) (d : Byte) : (decodeViaWrite inst off d).wf = true := by
  unfold decodeViaWrite
  split
  case h_17 => exact beyondSpan_of_le (by grind)
  all_goals rfl

theorem registerOp_wf (chip write : Bool) (inst : Nat) (off : Half) (d : Byte) :
    (registerOp chip write inst off d).wf = true := by
  cases chip with
  | false => exact decodeAcia_wf write inst off d
  | true =>
    cases write with
    | false => exact decodeViaRead_wf inst off
    | true => exact decodeViaWrite_wf inst off d

theorem decodeB_wf {w : OpWord} {i : Instr} (h : decodeB w = .ok i) : i.wf = true := by
  have haddr : (wordField w 8 16).toNat < 2 ^ 16 := BitVec.isLt _
  have hdata : (wordField w 0 8).toNat < 2 ^ 8 := BitVec.isLt _
  simp only [decodeB] at h
  split at h
  · cases h
  · split at h <;> cases h
    · simp only [Instr.wf, fitsAddr, fitsData, haddr, hdata, decide_true, Bool.and_true]
    · simp only [Instr.wf, fitsAddr, haddr, decide_true]

theorem decodeP_wf {w : OpWord} {inst : Nat} {i : Instr} (h : decodeP w inst = .ok i) : i.wf = true := by
  simp only [decodeP] at h
  split at h <;> cases h
  · exact registerOp_wf false _ _ _ _
  · exact registerOp_wf true _ _ _ _

theorem decodeM_wf {w : OpWord} {a : Operands} {i : Instr} (h : decodeM w a = .ok i) : i.wf = true := by
  simp only [decodeM] at h
  split at h
  · cases h
  · split at h <;> cases h <;> rfl

/-- Settles O2: format by format; the operands of format B are fields, and a catch-all row is the last of its chip. -/
theorem decodedOperationsAreWellFormed : Obligations.DecodedOperationsAreWellFormed := by
  rintro ⟨fmt, w, a⟩ i h
  cases fmt with
  | b => exact decodeB_wf h
  | p => exact decodeP_wf h
  | m => exact decodeM_wf h

/-- Settles O3: each word is one number, which the decoder takes apart. -/
theorem exampleWordsDecode : Obligations.ExampleWordsDecode :=
  ⟨rfl, rfl, rfl, rfl, rfl, rfl, rfl, rfl, rfl⟩

/-! ## What the decoder refuses -/

/-- A selector's word is the selector alone, above which no bit is set (R103). -/
theorem wordField_of_selector (sel : Byte) :
    wordField (sel.setWidth 32) 0 8 = sel ∧ wordField (sel.setWidth 32) 8 24 = 0 := by
  have hlt := sel.isLt
  have hn : (sel.setWidth 32).toNat = sel.toNat := by
    rw [BitVec.toNat_setWidth]; omega
  refine ⟨BitVec.eq_of_toNat_eq ?_, (wordField_top_eq_zero_iff _ rfl).mpr (by omega)⟩
  rw [wordField_toNat]; omega

/-- The selectors of the management operations (R110). -/
def listedSelectors : List Nat :=
  [0x00, 0x01, 0x02, 0x03, 0x04, 0x05, 0x06, 0x07, 0x10, 0x11, 0x12, 0x18, 0x19, 0x1A,
    0x20, 0x21, 0x22, 0x23, 0x24, 0x25, 0x26, 0x27, 0x30, 0x31, 0x32, 0x33]

/-- The selectors that R110 lists name an operation, and no other does (R117). -/
theorem decodeM_selector (sel : Byte) (args : Operands) :
    if sel.toNat ∈ listedSelectors then ∃ i, decodeM (sel.setWidth 32) args = .ok i
    else decodeM (sel.setWidth 32) args = .error (.unknownSelector sel) := by
  obtain ⟨hsel, htop⟩ := wordField_of_selector sel
  simp only [decodeM, hsel, htop, bne_self_eq_false, Bool.false_eq_true, if_false]
  generalize sel.toNat = n
  by_cases hmem : n ∈ listedSelectors
  · rw [if_pos hmem]
    simp only [listedSelectors] at hmem
    fin_cases hmem <;> exact ⟨_, rfl⟩
  · rw [if_neg hmem]
    split
    case h_27 => rfl
    all_goals exact absurd (by decide) hmem

/-- A format M word above 8 bits is refused (log entry 6). -/
theorem decodeM_tooWide {w : OpWord} (h : 2 ^ 8 ≤ w.toNat) (args : Operands) :
    decodeM w args = .error .wordTooWide := by
  have htop : wordField w 8 24 ≠ 0 := fun hz => absurd ((wordField_top_eq_zero_iff w rfl).mp hz) (Nat.not_lt.mpr h)
  simp only [decodeM, bne_iff_ne, if_pos htop]

/-- A format B word above 25 bits is refused (log entry 6). -/
theorem decodeB_tooWide {w : OpWord} (h : 2 ^ 25 ≤ w.toNat) : decodeB w = .error .wordTooWide := by
  have htop : wordField w 25 7 ≠ 0 := fun hz => absurd ((wordField_top_eq_zero_iff w rfl).mp hz) (Nat.not_lt.mpr h)
  simp only [decodeB, bne_iff_ne, if_pos htop]

/-- Every format B word of 25 bits is a bus access (R101). -/
theorem decodeB_accepts {w : OpWord} (h : w.toNat < 2 ^ 25) : ∃ i, decodeB w = .ok i := by
  have htop : wordField w 25 7 = 0 := (wordField_top_eq_zero_iff w rfl).mpr h
  simp only [decodeB, htop, bne_self_eq_false, Bool.false_eq_true, if_false]
  split <;> exact ⟨_, rfl⟩

/-- A chip type other than 0 and 1 is refused (U8). -/
theorem decodeP_unknownChip {w : OpWord} (h : 2 ^ 26 ≤ w.toNat) (inst : Nat) :
    decodeP w inst = .error .unknownChip := by
  have hchip : 2 ≤ (wordField w 25 7).toNat := by
    rw [wordField_top_toNat w rfl]; omega
  simp only [decodeP]
  split
  · omega
  · omega
  · rfl

/-- Every format P word of 26 bits is a register access (R102). -/
theorem decodeP_accepts {w : OpWord} (h : w.toNat < 2 ^ 26) (inst : Nat) : ∃ i, decodeP w inst = .ok i := by
  have hchip : (wordField w 25 7).toNat < 2 := by
    rw [wordField_top_toNat w rfl]; omega
  simp only [decodeP]
  split
  · exact ⟨_, rfl⟩
  · exact ⟨_, rfl⟩
  · grind

end Sys2Proof

namespace Sys2Proof.Machine

theorem runRequest_of_error {r : Request} {e : DecodeError} (h : decode r = .error e) (s : State) :
    runRequest r s = .refused (.undecodable e) := by
  simp only [runRequest, h]

/-- Settles O4: format by format, by the field that tells the refused words from the others; a step takes the request
and then decodes it. -/
theorem wordsWithoutOperationAreRefused : Obligations.WordsWithoutOperationAreRefused := by
  refine ⟨decodeM_selector, fun _ args h => decodeM_tooWide h args, fun w _ => ?_, fun w args => ?_,
    fun s r rest e hreq herr => (step_of_request hreq).trans (runRequest_of_error herr _)⟩
  · split
    · exact decodeB_tooWide ‹_›
    · exact decodeB_accepts (Nat.lt_of_not_le ‹_›)
  · split
    · exact decodeP_unknownChip ‹_› args.inst
    · exact decodeP_accepts (Nat.lt_of_not_le ‹_›) args.inst

end Sys2Proof.Machine
end

section
/-! SUPPORT. A register read through the bus (R105, R140, R144): what the offset of a region selects. -/

namespace Sys2Proof.Machine

/-- The ACIA read that an offset selects is the contract's register read (R170). -/
theorem exec_decodeAcia_read {i : Nat} {s : State} {a : Acia} (h : s.acias[i]? = some a) (off : Half) (d : Byte) :
    exec (decodeAcia false i off d) s =
      .next { (pRead (.acia i) off.toNat s).2 with reply := .byte (pRead (.acia i) off.toNat s).1 } := by
  rw [pRead_acia h]
  simp only [decodeAcia]
  generalize off.toNat = n
  match n with
  | 0 => simp only [exec, execAciaStatusR, onAcia_eq h, finish_eq, aciaRead, setAcia_self h]
  | 1 => exact onAcia_eq h _
  | n + 2 => simp only [exec, execAciaUndefR, onAcia_eq h, finish_eq, aciaRead, setAcia_self h]

/-- The VIA read that an offset selects is the contract's register read (R210). -/
theorem exec_decodeViaRead {i : Nat} {s : State} {v : Via} (h : s.vias[i]? = some v) (off : Half) :
    exec (decodeViaRead i off) s =
      .next { (pRead (.via i) off.toNat s).2 with reply := .byte (pRead (.via i) off.toNat s).1 } := by
  rw [pRead_via h]
  simp only [decodeViaRead]
  generalize off.toNat = n
  split
  case h_17 => simp only [exec, execViaUndefR, onVia_eq h, finish_eq, viaRead, setVia_self h]
  all_goals exact viaReadOp_eq h _

/-- The read operation that an offset selects is the contract's register read (R105, R170, R210). -/
theorem exec_readOp {p : PeriphRef} {s : State} {off : Nat} (hp : periphExists s p = true) (hoff : off < 65536) :
    exec (readOp p off) s = .next { (pRead p off s).2 with reply := .byte (pRead p off s).1 } := by
  have hnat : (BitVec.ofNat 16 off).toNat = off := Nat.mod_eq_of_lt hoff
  rcases periph_cases p s with ⟨i, a, rfl, h⟩ | ⟨i, v, rfl, h⟩ | h
  · rw [readOp, exec_decodeAcia_read h, hnat]
  · rw [readOp, exec_decodeViaRead h, hnat]
  · rw [hp] at h
    cases h

/-- A bus read that resolves to an IO region is the register read at the address's offset in it (R105, R140, R144). -/
theorem exec_busRead_io {s : State} {addr : Nat} {g : IoRegion} (h : resolve s.rtr (reduceAddr addr) = .io g) :
    exec (.busRead addr) s = .next { (pRead g.periph (reduceAddr addr - g.start) s).2 with
      reply := .byte (pRead g.periph (reduceAddr addr - g.start) s).1 } := by
  simp only [exec, execBusRead, busReadAt, h, finish_eq]

/-- A register read emits no event (R172, R174, R210). -/
theorem pRead_events (p : PeriphRef) (off : Nat) (s : State) : (pRead p off s).2.events = s.events := by
  rcases periph_cases p s with ⟨i, a, rfl, h⟩ | ⟨i, v, rfl, h⟩ | h
  · rw [pRead_acia h]; rfl
  · rw [pRead_via h]; rfl
  · rw [(periph_absent h off 0 0).1]

/-- Settles O18: the region takes the address, and both operations are the contract's register read. -/
theorem busReadOfPeripheralIsItsRegisterRead : Obligations.BusReadOfPeripheralIsItsRegisterRead := by
  intro s addr g hwf hrom hg hlo hhi
  obtain ⟨-, -, -, hrouter, -, ⟨hrefs, -⟩, -⟩ := hwf
  have hbus := exec_busRead_io (resolve_io hrouter hrom hg hlo hhi)
  have hoff : reduceAddr addr - g.start < 65536 := Nat.lt_of_le_of_lt (Nat.sub_le _ _) (Nat.mod_lt addr (by decide))
  have hdev := pRead_devicesOnly g.periph (reduceAddr addr - g.start) s
  exact ⟨hbus.trans (exec_readOp (hrefs g hg) hoff).symm, _, hbus, (devicesOnly_rtr hdev :), (devicesOnly_hub hdev :),
    (devicesOnly_agg hdev :), pRead_events _ _ s⟩

/-! ## Undefined offsets -/

/-- Settles O36: none of the four operations reads or writes the chip's registers. -/
theorem undefinedOffsetsReadOnesAndDropWrites : Obligations.UndefinedOffsetsReadOnesAndDropWrites := by
  intro s i off d
  exact ⟨fun a h => ⟨onAcia_eq h _, onAcia_eq h _⟩, fun v h => ⟨onVia_eq h _, onVia_eq h _⟩⟩

end Sys2Proof.Machine
end

section
/-! SUPPORT. The VIA's registers under a direction mask, a flag mask or an enable mask (R107 to R109), and Timer 1 from its
start to its expiry (R222, R245). -/

namespace Sys2Proof.Machine

/-! ## Masked writes -/

/-- Settles O43: the stored byte is the merge under the direction mask (R109). -/
theorem portWritesAffectOnlyOutputBits : Obligations.PortWritesAffectOnlyOutputBits := by
  intro s i v d h
  exact ⟨⟨portMerge v.orb v.ddrb d, viaWriteOp_eq h _, fun _ => portMerge_bit _ _ _⟩,
    ⟨portMerge v.ora v.ddra d, viaWriteOp_eq h _, viaWriteOp_eq h _, fun _ => portMerge_bit _ _ _⟩⟩

/-- An enable takes bit 7 of the written byte where its own bit is written as 1 (R107). -/
theorem ierWriteValue_bit_eq (ier : BitVec 7) (d : Byte) {k : Nat} (h : k < 7) :
    (ierWriteValue ier d).getLsbD k = if d.getLsbD k then d.getLsbD 7 else ier.getLsbD k := by
  rw [ierWriteValue_bit ier d h]
  cases d.getLsbD 7 <;> cases d.getLsbD k <;> simp

/-- Settles O48: bit by bit, from the two write values (R107, R108). -/
theorem flagWritesClearAndEnableWritesSetOrClear : Obligations.FlagWritesClearAndEnableWritesSetOrClear := by
  intro s i v d h
  exact ⟨⟨ifrWriteValue v.ifr d, viaWriteOp_eq h _, fun _ => ifrWriteValue_bit _ _⟩,
    ⟨ierWriteValue v.ier d, viaWriteOp_eq h _, fun _ => ierWriteValue_bit_eq _ _⟩⟩

/-! ## Timer 1 -/

/-- After a VIA write the chip holds what was written, and nothing is returned. -/
theorem viaWriteOp_leaves {i : Nat} {s : State} {v : Via} (h : s.vias[i]? = some v) (f : Via → Via) :
    ∃ t, viaWriteOp i s f = .next t ∧ t.reply = .unit ∧ t.vias[i]? = some (f v) := by
  obtain ⟨hi, -⟩ := List.getElem?_eq_some_iff.mp h
  exact ⟨_, viaWriteOp_eq h f, rfl, by simp [hi]⟩

/-- Timer 2 has no part in Timer 1 (R246). -/
theorem viaT2Advance_timer1 (c : Nat) (v : Via) :
    (viaT2Advance c v).t1c = v.t1c ∧ (viaT2Advance c v).t1l = v.t1l ∧ (viaT2Advance c v).t1run = v.t1run ∧
      (viaT2Advance c v).ifr.getLsbD 6 = v.ifr.getLsbD 6 := by
  have hbit : (setFlag v.ifr t2Bit).getLsbD 6 = v.ifr.getLsbD 6 := by
    rw [setFlag_bit]; simp [t2Bit]
  simp only [viaT2Advance]
  split
  · split
    · exact ⟨rfl, rfl, rfl, hbit⟩
    · exact ⟨rfl, rfl, rfl, rfl⟩
  · exact ⟨rfl, rfl, rfl, rfl⟩

/-- A running Timer 1 that the cycles do not reach counts down (R245). -/
theorem viaT1Advance_counting {c : Nat} {v : Via} (hrun : v.t1run = true) (h : c < v.t1c.toNat) :
    viaT1Advance c v = { v with t1c := BitVec.ofNat 16 (v.t1c.toNat - c) } := by
  simp only [viaT1Advance, hrun, if_true, countdown_eq, if_neg (Nat.not_le.mpr h)]

/-- A running Timer 1 that the cycles reach sets its flag, and reloads or stops as `acr` bit 6 says (R245, D31). -/
theorem viaT1Advance_expiring {c : Nat} {v : Via} (hrun : v.t1run = true) (h : v.t1c.toNat ≤ c) :
    viaT1Advance c v = { v with
      ifr := setFlag v.ifr t1Bit
      t1c := if v.acr.getLsbD 6 then v.t1l else 0x0000#16
      t1run := v.acr.getLsbD 6 } := by
  simp only [viaT1Advance, hrun, if_true, countdown_eq, if_pos h]
  cases v.acr.getLsbD 6 <;> simp

/-- `setTimer1(n)` on the VIA (D54): the low byte, then the high byte. -/
def setTimer1 (n : Nat) (v : Via) : Via :=
  viaT1chWrite (BitVec.ofNat 8 (n / 256)) (viaT1clWrite (BitVec.ofNat 8 (n % 256)) v)

/-- `setTimer1(n)` loads latch and counter with `n`, runs the timer and clears its flag (R220, R222, R250). -/
theorem setTimer1_eq {n : Nat} (h : n < 65536) (v : Via) :
    setTimer1 n v = { v with
      t1l := BitVec.ofNat 16 n, t1c := BitVec.ofNat 16 n, t1run := true, ifr := clearFlag v.ifr t1Bit } := by
  have hlatch : withHighByte (withLowByte v.t1l (BitVec.ofNat 8 (n % 256))) (BitVec.ofNat 8 (n / 256)) =
      BitVec.ofNat 16 n := by
    apply BitVec.eq_of_toNat_eq
    simp only [withHighByte_toNat, withLowByte_toNat, BitVec.toNat_ofNat]
    omega
  simp only [setTimer1, viaT1chWrite, viaT1clWrite, restartT1, hlatch]

/-- A tick of fewer than `n` cycles leaves the flag clear and the timer running (R396). -/
theorem viaTickStep_setTimer1_counting {n c : Nat} (h : n < 65536) (hc : c < n) (v : Via) :
    (viaTickStep c (setTimer1 n v)).ifr.getLsbD 6 = false ∧ (viaTickStep c (setTimer1 n v)).t1run = true ∧
      (viaTickStep c (setTimer1 n v)).t1c.toNat + c = n := by
  have hn : (BitVec.ofNat 16 n).toNat = n := Nat.mod_eq_of_lt h
  obtain ⟨ht1c, -, ht1run, hflag⟩ := viaT2Advance_timer1 c (viaT1Advance c (setTimer1 n v))
  rw [viaTickStep, ht1c, ht1run, hflag, setTimer1_eq h, viaT1Advance_counting rfl (by simpa [hn] using hc)]
  refine ⟨?_, rfl, ?_⟩
  · rw [clearFlag_bit _ _ (by decide)]
    simp [t1Bit]
  · simp only [hn, BitVec.toNat_ofNat]
    omega

/-- A tick of `n` or more cycles sets the flag, and the timer reloads `n` or stops at 0 (R396, D31). -/
theorem viaTickStep_setTimer1_expiring {n c : Nat} (h : n < 65536) (hc : n ≤ c) (v : Via) :
    (viaTickStep c (setTimer1 n v)).ifr.getLsbD 6 = true ∧
      (viaTickStep c (setTimer1 n v)).t1run = v.acr.getLsbD 6 ∧
      (viaTickStep c (setTimer1 n v)).t1c.toNat = if v.acr.getLsbD 6 then n else 0 := by
  have hn : (BitVec.ofNat 16 n).toNat = n := Nat.mod_eq_of_lt h
  obtain ⟨ht1c, -, ht1run, hflag⟩ := viaT2Advance_timer1 c (viaT1Advance c (setTimer1 n v))
  rw [viaTickStep, ht1c, ht1run, hflag, setTimer1_eq h, viaT1Advance_expiring rfl (by simpa [hn] using hc)]
  refine ⟨?_, rfl, ?_⟩
  · rw [setFlag_bit]
    simp [t1Bit]
  · simp only [apply_ite BitVec.toNat, hn]
    rfl

/-- A tick leaves the latch of Timer 1 (R245, R246). -/
theorem viaTickStep_t1l (c : Nat) (v : Via) : (viaTickStep c v).t1l = v.t1l := by
  obtain ⟨-, ht1l, -, -⟩ := viaT2Advance_timer1 c (viaT1Advance c v)
  rw [viaTickStep, ht1l]
  simp only [viaT1Advance]
  split
  · split
    · split <;> rfl
    · rfl
  · rfl

/-- Settles O51: the two writes are `setTimer1(n)` on the VIA, and a tick then falls short of the count or expires. -/
theorem timer1ExpiresAfterItsCount : Obligations.Timer1ExpiresAfterItsCount := by
  intro s i n c v h hn
  obtain ⟨t1, hexec1, hreply1, hv1⟩ := viaWriteOp_leaves h (viaT1clWrite (BitVec.ofNat 8 (n % 256)))
  obtain ⟨t2, hexec2, hreply2, hv2⟩ := viaWriteOp_leaves hv1 (viaT1chWrite (BitVec.ofNat 8 (n / 256)))
  obtain ⟨t3, hexec3, hreply3, hv3⟩ := viaWriteOp_leaves hv2 (viaTickStep c)
  refine ⟨t3, viaTickStep c (setTimer1 n v), ?_, hv3, ?_, fun hc => viaTickStep_setTimer1_counting hn hc v,
    fun hc => viaTickStep_setTimer1_expiring hn hc v⟩
  · simp only [runAll, exec, execViaT1clW, execViaT1chW, execViaTick, hexec1, hexec2, hexec3, hreply1, hreply2, hreply3]
  · rw [viaTickStep_t1l, setTimer1_eq hn]
    exact Nat.mod_eq_of_lt hn

end Sys2Proof.Machine
end

section
/-! SUPPORT. The map under every operation (R25, R54, R143): who changes ROM images, IO regions and bindings. -/

namespace Sys2Proof.Machine

/-- Settles O11: each management operation touches its own part of the map, and every other keeps the wiring. -/
theorem mapChangesOnlyByManagement : Obligations.MapChangesOnlyByManagement := by
  intro i s t h
  cases i with
  | rtrLoadRom data start =>
    rw [finish_next h]
    exact ⟨nofun, fun _ => withRom_ios data start s.rtr, fun _ => rfl⟩
  | rtrMapIo =>
    obtain ⟨-, ⟨-, rfl⟩ | ⟨-, rfl⟩⟩ := execRtrMapIo_next h <;> exact ⟨fun _ => rfl, nofun, fun _ => rfl⟩
  | hubRegister =>
    obtain ⟨-, ⟨_, -, rfl⟩ | ⟨-, rfl⟩⟩ := execHubRegister_next h <;> exact ⟨fun _ => rfl, fun _ => rfl, nofun⟩
  | hubUnregister =>
    rw [finish_next h]
    exact ⟨fun _ => rfl, fun _ => rfl, nofun⟩
  | sysAttach =>
    obtain ⟨-, ⟨_, -, rfl⟩ | ⟨-, rfl⟩⟩ := execSysAttach_next h <;> exact ⟨fun _ => rfl, nofun, nofun⟩
  | sysDetach =>
    obtain ⟨_, -, rfl⟩ | ⟨-, rfl⟩ := execSysDetach_next h <;> exact ⟨fun _ => rfl, nofun, nofun⟩
  | _ =>
    have hkept := exec_wiringKept rfl rfl rfl h
    exact ⟨fun _ => hkept.roms, fun _ => hkept.ios, fun _ => hkept.hub⟩

end Sys2Proof.Machine
end

section
/-! SUPPORT. The instances under every operation (R144, R310): an operation writes back the one instance it names. -/

namespace Sys2Proof.Machine

/-- From `s` to `t` the instances of number `k` are as they were, if operation `i` may not change them. -/
def LeavesInstances (k : Nat) (i : Instr) (s t : State) : Prop :=
  (mayChangeAcia k i = false → t.acias[k]? = s.acias[k]?) ∧
  (mayChangeVia k i = false → t.vias[k]? = s.vias[k]?)

/-- An operation that keeps both lists of instances leaves every instance. -/
theorem leavesInstances_of_same {k : Nat} {i : Instr} {s t : State} (ha : t.acias = s.acias)
    (hv : t.vias = s.vias) : LeavesInstances k i s t :=
  ⟨fun _ => by rw [ha], fun _ => by rw [hv]⟩

/-- An operation that writes back ACIA `j`, and may change no ACIA but that, leaves the others and every VIA. -/
theorem leavesInstances_of_aciaSet {k j : Nat} {i : Instr} {s t : State} {a : Acia}
    (hi : mayChangeAcia k i = (j == k)) (ha : t.acias = s.acias.set j a) (hv : t.vias = s.vias) :
    LeavesInstances k i s t := by
  refine ⟨fun hk => ?_, fun _ => by rw [hv]⟩
  have hjk : j ≠ k := by simpa [hi] using hk
  rw [ha, List.getElem?_set_ne hjk]

/-- An operation that writes back VIA `j`, and may change no VIA but that, leaves the others and every ACIA. -/
theorem leavesInstances_of_viaSet {k j : Nat} {i : Instr} {s t : State} {v : Via}
    (hi : mayChangeVia k i = (j == k)) (ha : t.acias = s.acias) (hv : t.vias = s.vias.set j v) :
    LeavesInstances k i s t := by
  refine ⟨fun _ => by rw [ha], fun hk => ?_⟩
  have hjk : j ≠ k := by simpa [hi] using hk
  rw [hv, List.getElem?_set_ne hjk]

theorem finish_leavesInstances {k : Nat} {i : Instr} {s u t : State} {r : Reply} (h : finish u r = .next t)
    (ha : u.acias = s.acias) (hv : u.vias = s.vias) : LeavesInstances k i s t := by
  rw [finish_next h]
  exact leavesInstances_of_same ha hv

theorem onAcia_set_leavesInstances {k j : Nat} {i : Instr} {s t : State} {f : Acia → Acia} {r : Acia → Reply}
    (hi : mayChangeAcia k i = (j == k))
    (h : onAcia j s (fun a => finish (setAcia j (f a) s) (r a)) = .next t) : LeavesInstances k i s t := by
  obtain ⟨a, -, h⟩ := onAcia_next h
  rw [finish_next h]
  exact leavesInstances_of_aciaSet hi rfl rfl

theorem viaWriteOp_leavesInstances {k j : Nat} {i : Instr} {s t : State} {f : Via → Via}
    (hi : mayChangeVia k i = (j == k)) (h : viaWriteOp j s f = .next t) : LeavesInstances k i s t := by
  obtain ⟨v, -, rfl⟩ := viaWriteOp_next h
  exact leavesInstances_of_viaSet hi rfl rfl

/-- The counter reads, which clear a flag (R219, R227). -/
theorem viaReadOp_leavesInstances {k j : Nat} {i : Instr} {s t : State} {f : Via → Byte × Via}
    (hi : mayChangeVia k i = (j == k)) (h : viaReadOp j s f = .next t) : LeavesInstances k i s t := by
  obtain ⟨v, -, rfl⟩ := viaReadOp_next h
  exact leavesInstances_of_viaSet hi rfl rfl

/-- The plain reads, which put back the VIA they read. -/
theorem viaReadOp_plain_leavesInstances {k j : Nat} {i : Instr} {s t : State} {f : Via → Byte × Via}
    (hf : ∀ v, (f v).2 = v) (h : viaReadOp j s f = .next t) : LeavesInstances k i s t := by
  obtain ⟨v, hv, rfl⟩ := viaReadOp_next h
  rw [hf, setVia_self hv]
  exact leavesInstances_of_same rfl rfl

theorem AggOnly.vias {s t : State} (h : AggOnly s t) : t.vias = s.vias := by rw [h]

/-- Every operation leaves the instances that it does not name and does not reach through the map. -/
theorem exec_leavesInstances {i : Instr} {s t : State} (k : Nat) (h : exec i s = .next t) :
    LeavesInstances k i s t := by
  cases i with
  | busRead | busWrite | hubTick | sysStep | sysReset => exact ⟨nofun, nofun⟩
  | aciaCtrlW | aciaRdrR | aciaTdrW | aciaReset => exact onAcia_set_leavesInstances rfl h
  | aciaTick =>
    obtain ⟨a, -, h⟩ := onAcia_next h
    rw [finish_next h]
    exact leavesInstances_of_aciaSet rfl rfl rfl
  | aciaStatusR | aciaUndefR | aciaUndefW | aciaIrq =>
    obtain ⟨a, -, h⟩ := onAcia_next h
    exact finish_leavesInstances h rfl rfl
  | viaT1clR | viaT2clR => exact viaReadOp_leavesInstances rfl h
  | viaOrbR | viaOraR | viaDdrbR | viaDdraR | viaT1chR | viaT1llR | viaT1lhR | viaT2chR
  | viaSrR | viaAcrR | viaPcrR | viaIfrR | viaIerR | viaOranhR =>
    exact viaReadOp_plain_leavesInstances (fun _ => rfl) h
  | viaOrbW | viaOraW | viaDdrbW | viaDdraW | viaT1clW | viaT1chW | viaT1llW | viaT1lhW | viaT2clW | viaT2chW
  | viaSrW | viaAcrW | viaPcrW | viaIfrW | viaIerW | viaOranhW
  | viaTick | viaReset => exact viaWriteOp_leavesInstances rfl h
  | viaUndefR | viaUndefW | viaIrq =>
    obtain ⟨v, -, h⟩ := onVia_next h
    exact finish_leavesInstances h rfl rfl
  | rtrConfigRam | rtrLoadRom | rtrClearRam | hubUnregister | hubCollect | aggClrNmi | aggReset | aggIrqPend
  | aggNmiPend => exact finish_leavesInstances h rfl rfl
  | rtrMapIo =>
    obtain ⟨-, ⟨-, rfl⟩ | ⟨-, rfl⟩⟩ := execRtrMapIo_next h <;> exact leavesInstances_of_same rfl rfl
  | hubRegister =>
    obtain ⟨-, ⟨_, -, rfl⟩ | ⟨-, rfl⟩⟩ := execHubRegister_next h <;> exact leavesInstances_of_same rfl rfl
  | sysAttach =>
    obtain ⟨-, ⟨_, -, rfl⟩ | ⟨-, rfl⟩⟩ := execSysAttach_next h <;> exact leavesInstances_of_same rfl rfl
  | sysDetach =>
    obtain ⟨_, -, rfl⟩ | ⟨-, rfl⟩ := execSysDetach_next h <;> exact leavesInstances_of_same rfl rfl
  | aggTrigIrq src => exact finish_leavesInstances h (raiseIrq_acias src s) (raiseIrq_vias src s)
  | aggTrigNmi src => exact finish_leavesInstances h (raiseNmi_acias src s) (raiseNmi_vias src s)
  | aggClrIrq src => exact finish_leavesInstances h (dropIrq_acias src s) (dropIrq_vias src s)
  | aggUpdate act =>
    have hagg := aggUpdateAll_aggOnly act s
    exact finish_leavesInstances h hagg.acias hagg.vias

/-- Settles O14: by `exec_leavesInstances`, for each number. -/
theorem instancesChangeOnlyByOperationsThatReachThem : Obligations.InstancesChangeOnlyByOperationsThatReachThem :=
  fun _ _ _ k h => exec_leavesInstances k h

end Sys2Proof.Machine
end

section
/-! SUPPORT. Bus accesses to ROM, to RAM that nothing shadows, and to unmapped addresses (R138, R140 to R145), and what
loading an image puts at an address (R131). -/

namespace Sys2Proof.Machine

/-! ## Resolution to memory -/

/-- Where a ROM image covers an address, such an image takes it (R138). -/
theorem resolve_rom {s : State} {a : Nat} (h : romCovered s a) :
    ∃ b ∈ s.rtr.roms, (b.base ≤ a ∧ a < b.base + b.bytes.length) ∧ resolve s.rtr a = .rom b := by
  have hsome : (s.rtr.roms.find? fun b => romCovers b a).isSome = true := by
    simpa [List.find?_isSome, romCovers] using h
  obtain ⟨b, hb⟩ := Option.isSome_iff_exists.mp hsome
  have hcov : romCovers b a = true := List.find?_some (p := fun b => romCovers b a) hb
  exact ⟨b, List.mem_of_find?_eq_some hb, by simpa [romCovers] using hcov, by simp only [resolve, hb]⟩

/-- One of two images ends before the other begins. -/
def RomsApart (x y : RomBlock) : Prop :=
  x.base + x.bytes.length ≤ y.base ∨ y.base + y.bytes.length ≤ x.base

/-- Of disjoint images at most one covers an address (R28). -/
theorem rom_eq_of_covers {r : Router} (hwf : routerWf r) {b c : RomBlock} {a : Nat} (hb : b ∈ r.roms) (hc : c ∈ r.roms)
    (hba : b.base ≤ a ∧ a < b.base + b.bytes.length) (hca : c.base ≤ a ∧ a < c.base + c.bytes.length) : b = c := by
  obtain ⟨-, ⟨hdisj, -⟩, -⟩ := hwf
  have hsymm : Std.Symm RomsApart := ⟨fun _ _ => Or.symm⟩
  have hapart : r.roms.Pairwise RomsApart := hdisj.imp .inl
  by_contra hne
  rcases hapart.forall hb hc hne with hbefore | hafter <;> omega

/-- Where neither a ROM image nor an IO region covers an address, its byte of RAM takes it if there is one, and else
nothing does (R138). -/
theorem resolve_uncovered_cases {s : State} {a : Nat} (hrom : ¬ romCovered s a) (hio : ¬ ioCovered s a) :
    (∃ m, s.rtr.ram = some m ∧ ramCovers m a = true ∧ ramByte s a = some (m.bytes.read a) ∧
      resolve s.rtr a = .ram m) ∨
    ramByte s a = none ∧ resolve s.rtr a = .unmapped := by
  simp only [resolve, ramByte, find?_rom_eq_none hrom, find?_io_eq_none hio]
  cases hram : s.rtr.ram with
  | none => exact .inr ⟨rfl, rfl⟩
  | some m =>
    cases hcov : ramCovers m a with
    | false => exact .inr ⟨by simp [hcov], by simp [hcov]⟩
    | true => exact .inl ⟨m, rfl, hcov, by simp [hcov], by simp [hcov]⟩

/-! ## Reads -/

/-- A bus read that resolves to ROM gives the image's byte and changes nothing else (R140, R143). -/
theorem exec_busRead_rom {s : State} {addr : Nat} {b : RomBlock} (h : resolve s.rtr (reduceAddr addr) = .rom b) :
    exec (.busRead addr) s = .next { s with reply := .byte (romRead b (reduceAddr addr)) } := by
  simp only [exec, execBusRead, busReadAt, h, finish_eq]

/-- A bus read that resolves to nothing gives 0xFF and changes nothing else (R145). -/
theorem exec_busRead_unmapped {s : State} {addr : Nat} (h : resolve s.rtr (reduceAddr addr) = .unmapped) :
    exec (.busRead addr) s = .next { s with reply := .byte openBus } := by
  simp only [exec, execBusRead, busReadAt, h, finish_eq]

/-- The image byte at an offset inside the image (R106). -/
theorem romRead_eq {b : RomBlock} {a : Nat} {x : Byte} (h : b.bytes[a - b.base]? = some x) : romRead b a = x := by
  rw [romRead, List.getD_eq_getElem?_getD, h]
  rfl

/-- Settles O17: the image that covers the address takes it, and where none and no region does, RAM or nothing. -/
theorem busReadOfMemoryReturnsTheByte : Obligations.BusReadOfMemoryReturnsTheByte := by
  intro s addr hwf
  obtain ⟨-, -, -, hrouter, -, -, -⟩ := hwf
  refine ⟨fun b hb x hlo hx => ?_, fun hrom hio => ?_⟩
  · obtain ⟨hlt, -⟩ := List.getElem?_eq_some_iff.mp hx
    have hcov : b.base ≤ addr % 65536 ∧ addr % 65536 < b.base + b.bytes.length := ⟨hlo, by omega⟩
    obtain ⟨c, hc, hccov, hres⟩ := resolve_rom ⟨b, hb, hcov⟩
    obtain rfl := rom_eq_of_covers hrouter hc hb hccov hcov
    rw [exec_busRead_rom hres, reduceAddr, romRead_eq hx]
  · rcases resolve_uncovered_cases hrom hio with ⟨m, -, -, hbyte, hres⟩ | ⟨hbyte, hres⟩
    · rw [exec_busRead_ram hres rfl, hbyte]
      rfl
    · rw [exec_busRead_unmapped hres, hbyte]
      rfl

/-! ## Writes -/

/-- A bus write that resolves to ROM has no effect (R141, R143). -/
theorem exec_busWrite_rom {s : State} {addr v : Nat} {b : RomBlock} (h : resolve s.rtr (reduceAddr addr) = .rom b) :
    exec (.busWrite addr v) s = .next { s with reply := .unit } := by
  simp only [exec, execBusWrite, busWriteAt, h, finish_eq]

/-- A bus write that resolves to nothing has no effect (R145). -/
theorem exec_busWrite_unmapped {s : State} {addr v : Nat} (h : resolve s.rtr (reduceAddr addr) = .unmapped) :
    exec (.busWrite addr v) s = .next { s with reply := .unit } := by
  simp only [exec, execBusWrite, busWriteAt, h, finish_eq]

/-- The bytes of RAM after a store at a covered address: the byte stored there, and every other as before. -/
theorem ramByte_store {s : State} {m : RamBlock} {a : Nat} (d : Byte) (hm : s.rtr.ram = some m) (hwf : ramWf m)
    (hcov : ramCovers m a = true) (x : Nat) :
    ramByte { s with rtr := { s.rtr with ram := some { m with bytes := m.bytes.write a d } } } x =
      if x = a then some d else ramByte s x := by
  obtain ⟨-, hmem, -⟩ := hwf
  have hcov' : ramCovers { m with bytes := m.bytes.write a d } x = ramCovers m x := rfl
  simp only [ramByte, hm, hcov']
  by_cases hx : x = a
  · subst hx
    simp [hcov, read_write_same _ d _ hmem]
  · simp [hx, read_write_other d hx]

/-- Settles O19: by what the address resolves to; a store changes the one byte of RAM. -/
theorem busWriteOfMemoryStoresTheByte : Obligations.BusWriteOfMemoryStoresTheByte := by
  intro s addr v hwf
  obtain ⟨-, -, -, ⟨hblock, -, -⟩, -, -, -⟩ := hwf
  refine ⟨fun hrom => ?_, fun hrom hio hbyte => ?_, fun hrom hio hbyte => ?_⟩
  · obtain ⟨b, -, -, hres⟩ := resolve_rom hrom
    exact exec_busWrite_rom hres
  · rcases resolve_uncovered_cases hrom hio with ⟨m, -, -, hsome, -⟩ | ⟨-, hres⟩
    · rw [hbyte] at hsome
      cases hsome
    · exact exec_busWrite_unmapped hres
  · rcases resolve_uncovered_cases hrom hio with ⟨m, hm, hcov, -, hres⟩ | ⟨hnone, -⟩
    · have hstore := ramByte_store (BitVec.ofNat 8 v) hm (hblock m hm) hcov
      exact ⟨_, exec_busWrite_ram hres, (hstore _).trans (if_pos rfl), fun x hx => (hstore x).trans (if_neg hx)⟩
    · exact absurd hnone hbyte

/-! ## A loaded image -/

/-- Two inclusive ranges intersect when they have an address in common (R146). -/
theorem intersects_iff {s1 e1 s2 e2 : Nat} : intersects s1 e1 s2 e2 = true ↔ rangesMeet s1 e1 s2 e2 := by
  simp [intersects]

/-- The images after `RTR.LOADROM`: the new one, and the old ones that it does not meet (R131). -/
theorem mem_withRom {data : List Byte} {start : Nat} {r : Router} {b : RomBlock} (hdata : data ≠ []) :
    b ∈ (withRom data start r).roms ↔ b = { base := start, bytes := data } ∨
      b ∈ r.roms ∧ ¬ rangesMeet b.base (b.base + b.bytes.length - 1) start (start + data.length - 1) := by
  rw [withRom, if_neg (by simpa using hdata), mem_insertByKey, List.mem_filter, ← intersects_iff]
  simp [romLast]

/-- After `RTR.LOADROM` of a non-empty image its base resolves to it: every image kept lies elsewhere. -/
theorem resolve_loadedRom (s : State) (d : Byte) (ds : List Byte) (base : Nat) :
    resolve (withRom (d :: ds) base s.rtr) base = .rom { base := base, bytes := d :: ds } := by
  have hmem : ({ base := base, bytes := d :: ds } : RomBlock) ∈ (withRom (d :: ds) base s.rtr).roms :=
    (mem_withRom (List.cons_ne_nil d ds)).mpr (.inl rfl)
  obtain ⟨b, hb, ⟨hlo, hhi⟩, hres⟩ := resolve_rom (s := { s with rtr := withRom (d :: ds) base s.rtr })
    ⟨_, hmem, le_refl base, by simp⟩
  rcases (mem_withRom (List.cons_ne_nil d ds)).mp hb with rfl | ⟨-, hapart⟩
  · exact hres
  · exact absurd ⟨by rw [List.length_cons]; omega, by omega⟩ hapart

/-- Settles O23: the base resolves to the image at the write and at the read. -/
theorem romIgnoresWrites : Obligations.RomIgnoresWrites := by
  intro s d ds base v hbase
  have hred : reduceAddr base = base := Nat.mod_eq_of_lt hbase
  have hres : resolve (withRom (d :: ds) base s.rtr) (reduceAddr base) = .rom { base := base, bytes := d :: ds } := by
    rw [hred, resolve_loadedRom]
  have hbyte : romRead { base := base, bytes := d :: ds } (reduceAddr base) = d := romRead_eq (by simp [hred])
  have hload : exec (.rtrLoadRom (d :: ds) base) s =
      .next { s with rtr := withRom (d :: ds) base s.rtr, reply := .unit } := rfl
  have hread := exec_busRead_rom (s := { s with rtr := withRom (d :: ds) base s.rtr, reply := .unit }) hres
  rw [hbyte] at hread
  exact ⟨_, runAll_of_next hload <| runAll_of_next (exec_busWrite_rom hres) <| runAll_of_next hread rfl⟩

end Sys2Proof.Machine
end

section
/-! SUPPORT. The management of the map: what RAM, ROM images, IO regions and bindings are afterwards (R130 to R135). -/

namespace Sys2Proof.Machine

/-! ## RAM -/

/-- Every byte of an empty block reads as zero (R24, R371). -/
theorem ramByte_emptyBlock (s : State) (base size a : Nat) :
    ramByte { s with rtr := { s.rtr with ram := some { base := base, size := size, bytes := [] } } } a =
      if base ≤ a ∧ a < base + size then some 0x00#8 else none := by
  simp [ramByte, ramCovers]

/-- `RTR.CONFIGRAM` of size 0 leaves no RAM (D3). -/
theorem exec_rtrConfigRam_zero (s : State) (start : Nat) :
    exec (.rtrConfigRam start 0) s = .next { s with rtr := { s.rtr with ram := none }, reply := .unit } := rfl

/-- `RTR.CLEARRAM` empties the block's memory, if there is a block (R135). -/
theorem withRamCleared_eq (r : Router) :
    withRamCleared r = { r with ram := r.ram.map fun m => { m with bytes := [] } } := by
  obtain ⟨_ | m, roms, ios⟩ := r <;> rfl

/-- Settles O24: the block installed and the block cleared hold no listed byte. -/
theorem ramIsInstalledAndClearedToZero : Obligations.RamIsInstalledAndClearedToZero := by
  refine ⟨fun s start size => ?_, fun s => ?_⟩
  · rcases Nat.eq_zero_or_pos size with rfl | hsize
    · exact ⟨none, exec_rtrConfigRam_zero s start, by simp, fun a => (if_neg (by omega)).symm⟩
    · exact ⟨_, exec_rtrConfigRam hsize, by simpa using hsize.ne', ramByte_emptyBlock s start size⟩
  · refine ⟨_, by rw [exec, execRtrClearRam, withRamCleared_eq, finish_eq], fun h => by rw [h]; rfl, fun a => ?_⟩
    cases hram : s.rtr.ram with
    | none => simp [ramByte, hram]
    | some m =>
      refine (ramByte_emptyBlock s m.base m.size a).trans ?_
      by_cases hcov : m.base ≤ a ∧ a < m.base + m.size <;> simp [ramByte, hram, ramCovers, hcov]

/-! ## ROM images and IO regions -/

/-- Settles O25: by `mem_withRom`. -/
theorem loadRomReplacesOverlappingImages : Obligations.LoadRomReplacesOverlappingImages := by
  refine ⟨fun _ _ => rfl, fun s start data hdata => ⟨(withRom data start s.rtr).roms, ?_, fun _ => mem_withRom hdata⟩⟩
  have hroms : withRom data start s.rtr = { s.rtr with roms := (withRom data start s.rtr).roms } := by
    simp only [withRom]
    split <;> rfl
  rw [← hroms]
  rfl

/-- The regions after `RTR.MAPIO`: the new one, and the old ones that it does not meet (R132). -/
theorem mem_withIo {start stop : Nat} {p : PeriphRef} {r : Router} {g : IoRegion} :
    g ∈ (withIo start stop p r).ios ↔ g = { start := start, stop := stop, periph := p } ∨
      g ∈ r.ios ∧ ¬ rangesMeet g.start g.stop start stop := by
  rw [withIo, mem_insertByKey, List.mem_filter, ← intersects_iff]
  simp

/-- Settles O26: by `mem_withIo`, and by the test of the range. -/
theorem mapIoReplacesOverlappingRegions : Obligations.MapIoReplacesOverlappingRegions := by
  intro s start stop p hp
  have hexec : exec (.rtrMapIo start stop p) s =
      if stop < start then raise s (.invalidRange start stop)
      else finish { s with rtr := withIo start stop p s.rtr } .unit := onPeriph_eq hp _
  refine ⟨fun hle => ⟨(withIo start stop p s.rtr).ios, ?_, fun _ => mem_withIo⟩, fun hlt => ?_⟩
  · rw [hexec, if_neg (Nat.not_lt.mpr hle)]
    rfl
  · rw [hexec, if_pos hlt]
    rfl

/-! ## Registration -/

/-- A range that is not inverted and meets no binding is admitted under a new name (R133). -/
theorem admissionError_of_admitted {h : Hub} {start stop : Nat} {name : String} (hle : start ≤ stop)
    (hfree : ∀ b ∈ h.bindings, b.name ≠ name ∧ ¬ rangesMeet b.start b.stop start stop) :
    admissionError h start stop name = none := by
  have hname : h.bindings.any (fun b => b.name == name) = false := by
    simpa using fun b hb => (hfree b hb).1
  have hfind : h.bindings.find? (fun b => intersects b.start b.stop start stop) = none :=
    List.find?_eq_none.mpr fun b hb hmeet => (hfree b hb).2 (intersects_iff.mp hmeet)
  simp [admissionError, Nat.not_lt.mpr hle, hname, hfind]

/-- An inverted range is the first error tested (D3). -/
theorem admissionError_inverted {start stop : Nat} (h : Hub) (name : String) (hlt : stop < start) :
    admissionError h start stop name = some (.invalidRange start stop) := if_pos hlt

/-- A name that is bound is the second error tested (D5). -/
theorem admissionError_bound {h : Hub} {start stop : Nat} {name : String} (hle : start ≤ stop)
    (hname : ∃ b ∈ h.bindings, b.name = name) : admissionError h start stop name = some (.duplicateName name) := by
  rw [admissionError, if_neg (Nat.not_lt.mpr hle), if_pos (by simpa using hname)]

/-- A binding that meets the range is the third error tested, and the first such binding is reported (D6). -/
theorem admissionError_conflict {h : Hub} {start stop : Nat} {name : String} {c : Binding} (hle : start ≤ stop)
    (hname : ∀ b ∈ h.bindings, b.name ≠ name)
    (hfind : h.bindings.find? (fun b => intersects b.start b.stop start stop) = some c) :
    admissionError h start stop name = some (.addressConflict start stop c.start c.stop) := by
  have hnew : h.bindings.any (fun b => b.name == name) = false := by simpa using hname
  simp [admissionError, Nat.not_lt.mpr hle, hnew, hfind]

/-- Bindings of non-empty disjoint ranges in rising order have rising starts (R27). -/
theorem hubWf_starts {h : Hub} (hwf : hubWf h) : h.bindings.Pairwise fun x y => x.start < y.start := by
  obtain ⟨hdisj, -, hle⟩ := hwf
  exact hdisj.imp_of_mem fun hx _ hxy => Nat.lt_of_le_of_lt (hle _ hx) hxy

/-- In a rising list the first binding that a test accepts is the one of lowest start (D6). -/
theorem find?_binding_eq_lowest {l : List Binding} (hrise : l.Pairwise fun x y => x.start < y.start)
    {q : Binding → Bool} {c : Binding} (hc : c ∈ l) (hq : q c = true)
    (hlow : ∀ b ∈ l, q b = true → c.start ≤ b.start) : l.find? q = some c := by
  induction l with
  | nil => cases hc
  | cons x xs ih =>
    obtain ⟨hx, hxs⟩ := List.pairwise_cons.mp hrise
    rcases List.mem_cons.mp hc with rfl | hc
    · exact List.find?_cons_of_pos hq
    · have hqx : ¬ q x = true := fun hqx =>
        absurd (hx c hc) (Nat.not_lt.mpr (hlow x List.mem_cons_self hqx))
      rw [List.find?_cons_of_neg hqx]
      exact ih hxs hc fun b hb => hlow b (List.mem_cons_of_mem x hb)

/-- `HUB.REGISTER` with an error of the admission changes nothing but the reply (R133, R320). -/
theorem exec_hubRegister_error {s : State} {p : PeriphRef} {start stop : Nat} {name : String} {e : OpError}
    (hp : periphExists s p = true) (h : admissionError s.hub start stop name = some e) :
    exec (.hubRegister p start stop name) s = .next { s with reply := .error e } := by
  simp only [exec, execHubRegister, onPeriph_eq hp, h, raise_eq]

/-- An admitted `HUB.REGISTER` inserts the binding and changes nothing else (R133). -/
theorem exec_hubRegister_admitted {s : State} {p : PeriphRef} {start stop : Nat} {name : String}
    (hp : periphExists s p = true) (h : admissionError s.hub start stop name = none) :
    exec (.hubRegister p start stop name) s = .next { s with
      hub := withBinding s.hub { name := name, start := start, stop := stop, periph := p }
      reply := .unit } := by
  simp only [exec, execHubRegister, onPeriph_eq hp, h, finish_eq]

/-- Settles O27: the binding is admitted, and its insertion keeps the hub well-formed. -/
theorem registerInsertsInOrder : Obligations.RegisterInsertsInOrder := by
  intro s p start stop name hp hle hfree
  have hadm := admissionError_of_admitted hle hfree
  exact ⟨_, exec_hubRegister_admitted hp hadm, insertByKey_perm _ _ _,
    fun hwf => hubWf_starts (withBinding_hubWf p hwf hadm)⟩

/-- Settles O28: one error after the other, the last with the meeting binding of lowest start. -/
theorem registerErrorsChangeNothing : Obligations.RegisterErrorsChangeNothing := by
  intro s p start stop name hp
  refine ⟨fun hlt => exec_hubRegister_error hp (admissionError_inverted s.hub name hlt),
    fun hle hname => exec_hubRegister_error hp (admissionError_bound hle hname),
    fun hle hname hwf c hc hmeet hlow => exec_hubRegister_error hp (admissionError_conflict hle hname ?_)⟩
  exact find?_binding_eq_lowest (hubWf_starts hwf) hc (intersects_iff.mpr hmeet)
    fun b hb hbmeet => hlow b hb (intersects_iff.mp hbmeet)

/-- Settles O29: the bindings kept are those of other names. -/
theorem unregisterRemovesTheName : Obligations.UnregisterRemovesTheName := by
  intro s name
  refine ⟨s.hub.bindings.filter (fun b => b.name != name), rfl, List.filter_sublist, fun b => by simp,
    fun habsent => List.filter_eq_self.mpr fun b hb => by simpa using habsent b hb, ?_⟩
  rintro args rfl
  simp [decode, decodeM, wordField]

end Sys2Proof.Machine
end

section
/-! SUPPORT. The hub's tick and collection as the operations of the bound peripherals (R136, R137). -/

namespace Sys2Proof.Machine

/-! ## The tick -/

/-- The tick operation of a peripheral of the system is the contract's tick (R184, R247). -/
theorem exec_tickOp {p : PeriphRef} {s : State} (hp : periphExists s p = true) (c : Nat) :
    exec (tickOp c p) s = .next { pTick p c s with reply := .unit } := by
  rcases periph_cases p s with ⟨i, a, rfl, h⟩ | ⟨i, v, rfl, h⟩ | h
  · rw [pTick_acia h]
    exact onAcia_eq h _
  · rw [pTick_via h]
    exact viaWriteOp_eq h _
  · rw [hp] at h
    cases h

/-- A tick does not read the last reply. -/
theorem pTick_withReply (p : PeriphRef) (c : Nat) (s : State) (r : Reply) :
    pTick p c { s with reply := r } = { pTick p c s with reply := r } := by
  rcases periph_cases p s with ⟨i, a, rfl, h⟩ | ⟨i, v, rfl, h⟩ | h
  · rw [pTick_acia h, pTick_acia (s := { s with reply := r }) h]
    rfl
  · rw [pTick_via h, pTick_via (s := { s with reply := r }) h]
    rfl
  · obtain ⟨-, -, -, htick, -⟩ := periph_absent h 0 c 0
    have h' : periphExists { s with reply := r } p = false := by
      rwa [((WiringKept.refl s).withReply r).periphExists_eq]
    obtain ⟨-, -, -, htick', -⟩ := periph_absent h' 0 c 0
    rw [htick, htick']

/-- The tick operations of a list of bindings, one after another, are the loop over the contract's ticks, up to the last
reply. -/
theorem runAll_ticks (c : Nat) : ∀ (l : List Binding) (s : State), (∀ b ∈ l, periphExists s b.periph = true) →
    ∃ replies r, runAll (l.map fun b => tickOp c b.periph) s =
      some (replies, { l.foldl (fun t b => pTick b.periph c t) s with reply := r })
  | [], s, _ => ⟨[], s.reply, rfl⟩
  | b :: rest, s, h => by
    have hkept := (pTick_devicesOnly b.periph c s).wiringKept.withReply .unit
    obtain ⟨replies, r, hrest⟩ := runAll_ticks c rest { pTick b.periph c s with reply := .unit } fun x hx => by
      rw [hkept.periphExists_eq]
      exact h x (List.mem_cons_of_mem b hx)
    have hloop := List.foldl_hom (fun t : State => { t with reply := .unit }) (init := pTick b.periph c s) (l := rest)
      (g₁ := fun t b => pTick b.periph c t) (g₂ := fun t b => pTick b.periph c t)
      fun t x => pTick_withReply x.periph c t .unit
    rw [hloop] at hrest
    exact ⟨_, r, runAll_of_next (exec_tickOp (h b List.mem_cons_self) c) hrest⟩

/-- Settles O30: by `runAll_ticks` over the hub's bindings. -/
theorem hubTickTicksEveryBindingInOrder : Obligations.HubTickTicksEveryBindingInOrder := by
  intro s c hexist
  obtain ⟨replies, r, hrun⟩ := runAll_ticks c s.hub.bindings s hexist
  exact ⟨replies, _, hrun, rfl⟩

/-! ## The collection -/

/-- The report operation of a peripheral of the system answers the contract's report (R178, R248). -/
theorem exec_irqOp {p : PeriphRef} {s : State} (hp : periphExists s p = true) :
    exec (irqOp p) s = .next { s with reply := .bool (pIrq p s) } := by
  rcases periph_cases p s with ⟨i, a, rfl, h⟩ | ⟨i, v, rfl, h⟩ | h
  · rw [pIrq_acia h]
    exact onAcia_eq h _
  · rw [pIrq_via h]
    exact onVia_eq h _
  · rw [hp] at h
    cases h

theorem reports_iff {s : State} {b : Binding} (hp : periphExists s b.periph = true) :
    reports s b ↔ pIrq b.periph s = true := by
  rw [reports, exec_irqOp hp]
  simp

/-- The name of a binding is collected just when its peripheral reports, since a name is bound once (R27). -/
theorem mem_hubCollectNames {s : State} {b : Binding} (hwf : hubWf s.hub) (hb : b ∈ s.hub.bindings) :
    b.name ∈ hubCollectNames s ↔ pIrq b.periph s = true := by
  simp only [hubCollectNames, List.mem_map, List.mem_filter]
  constructor
  · rintro ⟨x, ⟨hx, hirq⟩, hname⟩
    obtain rfl := binding_eq_of_name hwf hx hb hname
    exact hirq
  · exact fun hirq => ⟨b, ⟨hb, hirq⟩, rfl⟩

/-- Settles O31: the names are those of the bindings that the filter keeps. -/
theorem hubCollectNamesTheReporting : Obligations.HubCollectNamesTheReporting := by
  intro s hwf
  obtain ⟨-, -, -, -, hhub, ⟨-, hrefs⟩, -⟩ := hwf
  exact ⟨hubCollectNames s, rfl, List.filter_sublist.map Binding.name,
    fun b hb => (mem_hubCollectNames hhub hb).trans (reports_iff (hrefs b hb)).symm,
    fun args => by simp [decode, decodeM, wordField]⟩

end Sys2Proof.Machine
end

section
/-! SUPPORT. The ACIA's control and data registers and its interrupt report (R171, R173, R174, R178, R179, R181). -/

namespace Sys2Proof.Machine

/-! ## The control register and the reset -/

theorem divideSelect_eq_iff {v : Byte} {sel : BitVec 2} : divideSelect v = sel ↔ v.toNat % 4 = sel.toNat := by
  simp [← BitVec.toNat_inj, divideSelect]

/-- The bit time at divide by 16 (R179, D10). -/
theorem cyclesPerBitOf_divideBy16 (baud : Nat) : cyclesPerBitOf baud 0b01#2 = 16000000 / baud := by
  simp [cyclesPerBitOf, busHz, divideRatio]

/-- The bit time at divide by 64 (R179, D10). -/
theorem cyclesPerBitOf_divideBy64 (baud : Nat) : cyclesPerBitOf baud 0b10#2 = 64000000 / baud := by
  simp [cyclesPerBitOf, busHz, divideRatio]

theorem aciaControlWrite_masterReset (a : Acia) {v : Byte} (h : divideSelect v = 0b11#2) :
    aciaControlWrite a v = aciaResetState a := by
  simp [aciaControlWrite, isMasterReset, h]

theorem aciaControlWrite_divide (a : Acia) {v : Byte} (h : divideSelect v ≠ 0b11#2) :
    aciaControlWrite a v = { a with control := v, cyclesPerBit := cyclesPerBitOf a.baud (divideSelect v) } := by
  simp [aciaControlWrite, isMasterReset, h]

theorem exec_aciaCtrlW {i : Nat} {s : State} {a : Acia} (ha : s.acias[i]? = some a) (v : Byte) :
    exec (.aciaCtrlW i v) s = .next { s with acias := s.acias.set i (aciaControlWrite a v), reply := .unit } :=
  onAcia_eq ha _

theorem exec_aciaReset {i : Nat} {s : State} {a : Acia} (ha : s.acias[i]? = some a) :
    exec (.aciaReset i) s = .next { s with acias := s.acias.set i (aciaResetState a), reply := .unit } :=
  onAcia_eq ha _

/-- A control byte that is no master reset command is stored, and its divide select gives the bit time (R171). -/
theorem exec_aciaCtrlW_divide {i : Nat} {s : State} {a : Acia} (ha : s.acias[i]? = some a) {v : Byte} {sel : BitVec 2}
    (hv : v.toNat % 4 = sel.toNat) (hsel : sel ≠ 0b11#2) :
    exec (.aciaCtrlW i v) s = .next { s with
      acias := s.acias.set i { a with control := v, cyclesPerBit := cyclesPerBitOf a.baud sel }, reply := .unit } := by
  obtain rfl := divideSelect_eq_iff.mpr hv
  rw [exec_aciaCtrlW ha, aciaControlWrite_divide a hsel]

/-- Settles O33: one clause per divide select, the master reset, and the reset values. -/
theorem controlWriteSetsTheBitTimeOrResets : Obligations.ControlWriteSetsTheBitTimeOrResets := by
  intro s i a v ha
  refine ⟨fun hv => ?_, fun hv => ?_, fun hv => ?_, fun hv => ?_, ?_⟩
  · rw [exec_aciaCtrlW_divide (sel := 0b00#2) ha hv (by decide), cyclesPerBitOf_divideBy1]
  · rw [exec_aciaCtrlW_divide (sel := 0b01#2) ha hv (by decide), cyclesPerBitOf_divideBy16]
  · rw [exec_aciaCtrlW_divide (sel := 0b10#2) ha hv (by decide), cyclesPerBitOf_divideBy64]
  · rw [exec_aciaCtrlW ha, exec_aciaReset ha, aciaControlWrite_masterReset a (divideSelect_eq_iff.mpr hv)]
  · rw [exec_aciaReset ha, aciaResetState, cyclesPerBitOf_divideBy1]

/-! ## The data registers -/

theorem aciaDataRead_cons {a : Acia} {b : Byte} {rest : List Byte} (h : a.rxq = b :: rest) :
    aciaDataRead a = (b, { a with rdr := b, rxq := rest }) := by
  simp only [aciaDataRead, h]

/-- With the queue empty the last byte read comes again (D19). -/
theorem aciaDataRead_nil {a : Acia} (h : a.rxq = []) : aciaDataRead a = (a.rdr, a) := by
  simp only [aciaDataRead, h]

theorem exec_aciaRdrR {i : Nat} {s : State} {a : Acia} (ha : s.acias[i]? = some a) :
    exec (.aciaRdrR i) s = .next { setAcia i (aciaDataRead a).2 s with reply := .byte (aciaDataRead a).1 } :=
  onAcia_eq ha _

/-- Settles O34: the queue holds a byte, or it is empty. -/
theorem dataReadDequeues : Obligations.DataReadDequeues := by
  intro s i a ha
  refine ⟨fun b rest hq => ?_, fun hq => ?_⟩
  · rw [exec_aciaRdrR ha, aciaDataRead_cons hq]
    rfl
  · rw [exec_aciaRdrR ha, aciaDataRead_nil hq, setAcia_self ha]

theorem aciaDataWrite_busy {a : Acia} (v : Byte) (h : a.txActive = true) : aciaDataWrite a v = a := by
  simp [aciaDataWrite, h]

theorem aciaDataWrite_idle {a : Acia} (v : Byte) (h : a.txActive = false) :
    aciaDataWrite a v = { a with tdr := v, txActive := true, txCount := 10 * a.cyclesPerBit } := by
  simp [aciaDataWrite, h, charCyclesOf, bitsPerChar]

theorem exec_aciaTdrW {i : Nat} {s : State} {a : Acia} (ha : s.acias[i]? = some a) (v : Byte) :
    exec (.aciaTdrW i v) s = .next { setAcia i (aciaDataWrite a v) s with reply := .unit } :=
  onAcia_eq ha _

/-- Settles O35: a transmission is in flight, or none is. -/
theorem dataWriteStartsOrIsIgnored : Obligations.DataWriteStartsOrIsIgnored := by
  intro s i a v ha
  refine ⟨fun hbusy => ?_, fun hidle => ?_⟩
  · rw [exec_aciaTdrW ha, aciaDataWrite_busy v hbusy, setAcia_self ha]
  · rw [exec_aciaTdrW ha, aciaDataWrite_idle v hidle]
    rfl

/-! ## The interrupt report -/

/-- Settles O37: by `aciaIrqCond_iff`. -/
theorem aciaReportsItsInterruptCondition : Obligations.AciaReportsItsInterruptCondition := by
  intro s i a ha
  exact ⟨aciaIrqCond s.params a, onAcia_eq ha _, aciaIrqCond_iff s.params a⟩

end Sys2Proof.Machine
end

section
/-! SUPPORT. The tick of an ACIA, part by part: transmit, receive, poll (R175, R176, R177, R184, D20). -/

namespace Sys2Proof.Machine

/-! ## The transmit part -/

/-- `b` is `a` but for the transmit countdown. -/
def TransmitterOnly (a b : Acia) : Prop := b = { a with txActive := b.txActive, txCount := b.txCount }

theorem aciaTxAdvance_idle {c : Nat} {a : Acia} (h : a.txActive = false) : aciaTxAdvance c a = (a, []) := by
  simp [aciaTxAdvance, h]

theorem aciaTxAdvance_counting {c : Nat} {a : Acia} (h : a.txActive = true) (hc : c < a.txCount) :
    aciaTxAdvance c a = ({ a with txCount := a.txCount - c }, []) := by
  simp [aciaTxAdvance, h, countdown_eq, Nat.not_le.mpr hc]

/-- At the expiry the byte goes to the bound port, if there is one (R175). -/
theorem aciaTxAdvance_expiring {c : Nat} {a : Acia} (h : a.txActive = true) (hc : a.txCount ≤ c) :
    aciaTxAdvance c a = ({ a with txActive := false, txCount := 0 },
      (a.port.map fun k => Event.portWrite k a.tdr).toList) := by
  cases hport : a.port <;> simp [aciaTxAdvance, h, countdown_eq, hc, hport]

theorem aciaTxAdvance_transmitterOnly (c : Nat) (a : Acia) : TransmitterOnly a (aciaTxAdvance c a).1 := by
  cases hact : a.txActive with
  | false => rw [aciaTxAdvance_idle hact]; rfl
  | true =>
    rcases Nat.lt_or_ge c a.txCount with hc | hc
    · rw [aciaTxAdvance_counting hact hc, TransmitterOnly]
    · rw [aciaTxAdvance_expiring hact hc, TransmitterOnly]

/-! ## The receive part -/

/-- `b` is `a` but for the receive side. -/
def ReceiverOnly (a b : Acia) : Prop :=
  b = { a with rxq := b.rxq, rxShift := b.rxShift, ovrn := b.ovrn, rxActive := b.rxActive, rxCount := b.rxCount }

theorem aciaRxAdvance_idle {p : Config.Params} {c : Nat} {a : Acia} (h : a.rxActive = false) :
    aciaRxAdvance p c a = a := by
  simp [aciaRxAdvance, h]

theorem aciaRxAdvance_counting {p : Config.Params} {c : Nat} {a : Acia} (h : a.rxActive = true) (hc : c < a.rxCount) :
    aciaRxAdvance p c a = { a with rxCount := a.rxCount - c } := by
  simp [aciaRxAdvance, h, countdown_eq, Nat.not_le.mpr hc]

/-- At the expiry an unread byte makes an overrun, and the byte is queued if there is room (R176, D17, D18). -/
theorem aciaRxAdvance_expiring {p : Config.Params} {c : Nat} {a : Acia} (h : a.rxActive = true) (hc : a.rxCount ≤ c) :
    aciaRxAdvance p c a = { a with
      rxActive := false, rxCount := 0, ovrn := a.ovrn || rdrf a
      rxq := if a.rxq.length < p.rxqCap then a.rxq ++ [a.rxShift] else a.rxq } := by
  simp [aciaRxAdvance, h, countdown_eq, hc]

theorem aciaRxAdvance_receiverOnly (p : Config.Params) (c : Nat) (a : Acia) :
    ReceiverOnly a (aciaRxAdvance p c a) := by
  cases hact : a.rxActive with
  | false => rw [aciaRxAdvance_idle hact]; rfl
  | true =>
    rcases Nat.lt_or_ge c a.rxCount with hc | hc
    · rw [aciaRxAdvance_counting hact hc, ReceiverOnly]
    · rw [aciaRxAdvance_expiring hact hc, ReceiverOnly]

/-! ## The poll -/

theorem askHasData_cons (k : Nat) {e : Env} {x : Bool} {rest : List Bool} (h : e.hasData = x :: rest) :
    askHasData k e = (x, { e with hasData := rest }) := by
  simp only [askHasData, h]

theorem askHasData_nil (k : Nat) {e : Env} (h : e.hasData = []) :
    askHasData k e = (Config.portHasData k e.asked, { e with asked := e.asked + 1 }) := by
  simp only [askHasData, h]

theorem askRead_cons (k : Nat) {e : Env} {x : Option Byte} {rest : List (Option Byte)} (h : e.reads = x :: rest) :
    askRead k e = (x, { e with reads := rest }) := by
  simp only [askRead, h]

theorem askRead_nil (k : Nat) {e : Env} (h : e.reads = []) :
    askRead k e = (Config.portRead k e.asked, { e with asked := e.asked + 1 }) := by
  simp only [askRead, h]

theorem aciaRxPoll_busy {a : Acia} (e : Env) (h : a.rxActive = true) : aciaRxPoll a e = (a, e) := by
  simp [aciaRxPoll, h]

section
variable {a : Acia} (hidle : a.rxActive = false)
include hidle

theorem aciaRxPoll_unbound (e : Env) (hport : a.port = none) : aciaRxPoll a e = (a, e) := by
  simp [aciaRxPoll, hidle, hport]

variable {k : Nat} (hport : a.port = some k) {e : Env}
include hport

theorem aciaRxPoll_noData (hhas : (askHasData k e).1 = false) : aciaRxPoll a e = (a, (askHasData k e).2) := by
  simp [aciaRxPoll, hidle, hport, hhas]

theorem aciaRxPoll_absent (hhas : (askHasData k e).1 = true) (hgot : (askRead k (askHasData k e).2).1 = none) :
    aciaRxPoll a e = (a, (askRead k (askHasData k e).2).2) := by
  simp [aciaRxPoll, hidle, hport, hhas, hgot]

/-- A byte from the port starts a reception of ten bit times (R177, R180). -/
theorem aciaRxPoll_byte {x : Byte} (hhas : (askHasData k e).1 = true)
    (hgot : (askRead k (askHasData k e).2).1 = some x) :
    aciaRxPoll a e = ({ a with rxShift := x, rxActive := true, rxCount := 10 * a.cyclesPerBit },
      (askRead k (askHasData k e).2).2) := by
  simp [aciaRxPoll, hidle, hport, hhas, hgot, charCyclesOf, bitsPerChar]

/-- With data reported the oracle moves on by the one read, whatever that read gives. -/
theorem aciaRxPoll_asksForByte (hhas : (askHasData k e).1 = true) :
    (aciaRxPoll a e).2 = (askRead k (askHasData k e).2).2 := by
  cases hgot : (askRead k (askHasData k e).2).1 with
  | none => rw [aciaRxPoll_absent hidle hport hhas hgot]
  | some x => rw [aciaRxPoll_byte hidle hport hhas hgot]

end

theorem aciaRxPoll_receiverOnly (a : Acia) (e : Env) : ReceiverOnly a (aciaRxPoll a e).1 := by
  rcases aciaRxPoll_cases a e with heq | ⟨-, -, x, heq⟩
  · rw [heq]; rfl
  · rw [heq, ReceiverOnly]

theorem aciaRxPoll_rxq (a : Acia) (e : Env) : (aciaRxPoll a e).1.rxq = a.rxq := by
  rcases aciaRxPoll_cases a e with heq | ⟨-, -, x, heq⟩ <;> rw [heq]

/-! ## The tick -/

/-- The ACIA when a tick comes to the poll: both countdowns are done (R184, D20). -/
def aciaBeforePoll (p : Config.Params) (c : Nat) (a : Acia) : Acia := aciaRxAdvance p c (aciaTxAdvance c a).1

theorem exec_aciaTick {i : Nat} {s : State} {a : Acia} (ha : s.acias[i]? = some a) (c : Nat) :
    exec (.aciaTick i c) s = .next { s with
      acias := s.acias.set i (aciaRxPoll (aciaBeforePoll s.params c a) s.env).1
      env := (aciaRxPoll (aciaBeforePoll s.params c a) s.env).2
      events := s.events ++ (aciaTxAdvance c a).2
      reply := .unit } :=
  onAcia_eq ha _

/-- The two receive parts leave the transmit side as the transmit part has left it. -/
theorem aciaTick_receiverOnly (p : Config.Params) (c : Nat) (a : Acia) (e : Env) :
    ReceiverOnly (aciaTxAdvance c a).1 (aciaRxPoll (aciaBeforePoll p c a) e).1 := by
  rw [ReceiverOnly, aciaRxPoll_receiverOnly, aciaBeforePoll, aciaRxAdvance_receiverOnly]

/-- Settles O38: the receive parts keep the transmit side, and the transmit part is idle, counting or expiring. -/
theorem tickAdvancesTheTransmitter : Obligations.TickAdvancesTheTransmitter := by
  intro s i c a ha
  have hrx := aciaTick_receiverOnly s.params c a s.env
  have hactive := congrArg Acia.txActive hrx
  have hcount := congrArg Acia.txCount hrx
  refine ⟨_, _, _, exec_aciaTick ha c, ?_, fun hidle => ?_, fun hact hc => ?_, fun hact hc => ?_⟩
  · rw [hrx, aciaTxAdvance_transmitterOnly]
  · rw [hactive, hcount, aciaTxAdvance_idle hidle]
    exact ⟨hidle, rfl, rfl⟩
  · rw [hactive, hcount, aciaTxAdvance_counting hact hc]
    exact ⟨hact, Nat.sub_add_cancel hc.le, rfl⟩
  · rw [hactive, hcount, aciaTxAdvance_expiring hact hc]
    refine ⟨rfl, rfl, ?_⟩
    cases a.port <;> rfl

/-! ## The receiver before the poll -/

/-- The two countdowns do not read each other. -/
theorem aciaBeforePoll_eq (p : Config.Params) (c : Nat) (a : Acia) :
    aciaBeforePoll p c a = { aciaRxAdvance p c a with
      txActive := (aciaTxAdvance c a).1.txActive, txCount := (aciaTxAdvance c a).1.txCount } := by
  rw [aciaBeforePoll, aciaTxAdvance_transmitterOnly]
  by_cases hact : a.rxActive = true
  · simp only [aciaRxAdvance, if_pos hact]
    cases countdown a.rxCount c <;> rfl
  · simp only [aciaRxAdvance, if_neg hact]

theorem aciaBeforePoll_wiring (p : Config.Params) (c : Nat) (a : Acia) :
    (aciaBeforePoll p c a).port = a.port ∧ (aciaBeforePoll p c a).cyclesPerBit = a.cyclesPerBit := by
  rw [aciaBeforePoll_eq, aciaRxAdvance_receiverOnly]
  exact ⟨rfl, rfl⟩

theorem aciaBeforePoll_counting {p : Config.Params} {c : Nat} {a : Acia} (hact : a.rxActive = true)
    (hc : c < a.rxCount) :
    let x := aciaBeforePoll p c a
    x.rxActive = true ∧ x.rxCount + c = a.rxCount ∧ x.rxShift = a.rxShift ∧ x.rxq = a.rxq ∧ x.ovrn = a.ovrn := by
  simp only [aciaBeforePoll_eq]
  rw [aciaRxAdvance_counting hact hc]
  exact ⟨hact, Nat.sub_add_cancel hc.le, rfl, rfl, rfl⟩

theorem aciaBeforePoll_expiring {p : Config.Params} {c : Nat} {a : Acia} (hact : a.rxActive = true)
    (hc : a.rxCount ≤ c) :
    let x := aciaBeforePoll p c a
    receiverIdleAfter a x ∧ x.ovrn = (a.ovrn || rdrf a) ∧
      x.rxq = if a.rxq.length < p.rxqCap then a.rxq ++ [a.rxShift] else a.rxq := by
  simp only [aciaBeforePoll_eq]
  rw [aciaRxAdvance_expiring hact hc]
  exact ⟨⟨rfl, rfl, by rw [if_pos hact]⟩, rfl, rfl⟩

theorem aciaBeforePoll_idle {p : Config.Params} {c : Nat} {a : Acia} (hidle : a.rxActive = false) :
    let x := aciaBeforePoll p c a
    receiverIdleAfter a x ∧ x.rxq = a.rxq ∧ x.ovrn = a.ovrn := by
  simp only [aciaBeforePoll_eq]
  rw [aciaRxAdvance_idle hidle]
  exact ⟨⟨hidle, rfl, by simp [hidle]⟩, rfl, rfl⟩

/-- A receiver that was idle or whose reception ends is idle at the poll. -/
theorem aciaBeforePoll_receiverIdle {p : Config.Params} {c : Nat} {a : Acia}
    (h : a.rxActive = false ∨ a.rxCount ≤ c) : receiverIdleAfter a (aciaBeforePoll p c a) := by
  cases hact : a.rxActive with
  | false => exact (aciaBeforePoll_idle hact).1
  | true => exact (aciaBeforePoll_expiring hact (h.resolve_left (by simp [hact]))).1

/-- Settles O39: the receiver before the poll, and then the port's answers in the order asked. -/
theorem tickAdvancesTheReceiver : Obligations.TickAdvancesTheReceiver := by
  intro s i c a ha
  refine ⟨_, _, _, exec_aciaTick ha c, fun hact hc => ?_, fun hact hc => ?_, fun hidle => ?_, fun hdone => ?_⟩
  · obtain ⟨hbusy, hcount, hshift, hq, ho⟩ := aciaBeforePoll_counting (p := s.params) hact hc
    rw [aciaRxPoll_busy s.env hbusy]
    exact ⟨hbusy, hcount, hshift, hq, ho, rfl⟩
  · obtain ⟨-, ho, hq⟩ := aciaBeforePoll_expiring (p := s.params) hact hc
    rw [aciaRxPoll_ovrn, aciaRxPoll_rxq, ho, hq, Bool.or_eq_true, rdrf_iff]
    exact ⟨.rfl, rfl⟩
  · obtain ⟨-, hq, ho⟩ := aciaBeforePoll_idle (p := s.params) (c := c) hidle
    rw [aciaRxPoll_ovrn, aciaRxPoll_rxq]
    exact ⟨hq, ho⟩
  · have hafter := aciaBeforePoll_receiverIdle (p := s.params) hdone
    obtain ⟨hport, hbit⟩ := aciaBeforePoll_wiring s.params c a
    rw [← hport, ← hbit]
    refine ⟨fun hnone => ?_, fun k hk => ⟨(askHasData k s.env).1, (askHasData k s.env).2, fun x rest hlist => ?_,
      fun hlist => ?_, fun hno => ?_, fun hyes => ⟨(askRead k (askHasData k s.env).2).1, fun x rest hlist => ?_,
        fun hlist => ?_, fun hgot => ?_, fun x hgot => ?_⟩⟩⟩
    · rw [aciaRxPoll_unbound hafter.1 s.env hnone]
      exact ⟨hafter, rfl⟩
    · rw [askHasData_cons k hlist]
      exact ⟨rfl, rfl⟩
    · rw [askHasData_nil k hlist]
      exact ⟨rfl, rfl⟩
    · rw [aciaRxPoll_noData hafter.1 hk hno]
      exact ⟨hafter, rfl⟩
    · rw [aciaRxPoll_asksForByte hafter.1 hk hyes, askRead_cons k hlist]
      exact ⟨rfl, rfl⟩
    · rw [aciaRxPoll_asksForByte hafter.1 hk hyes, askRead_nil k hlist]
      exact ⟨rfl, rfl⟩
    · rw [aciaRxPoll_absent hafter.1 hk hyes hgot]
      exact hafter
    · rw [aciaRxPoll_byte hafter.1 hk hyes hgot]
      exact ⟨rfl, rfl, rfl⟩

/-! ## A transmission from the write to the port -/

/-- ACIA `i` is sending byte `v` to port `k`, with `n` cycles to go. -/
def Transmits (i : Nat) (v : Byte) (k n : Nat) (s : State) : Prop :=
  ∃ a, s.acias[i]? = some a ∧ a.txActive = true ∧ a.txCount = n ∧ a.tdr = v ∧ a.port = some k

theorem getElem?_set_of_some {α : Type} {l : List α} {i : Nat} {x : α} (h : l[i]? = some x) (y : α) :
    (l.set i y)[i]? = some y := by
  rw [List.getElem?_set_self', h]
  rfl

/-- A write to an idle ACIA starts a transmission of ten bit times (R173). -/
theorem exec_aciaTdrW_transmits {i k : Nat} {s : State} {a : Acia} (ha : s.acias[i]? = some a)
    (hidle : a.txActive = false) (hport : a.port = some k) (v : Byte) :
    ∃ t, exec (.aciaTdrW i v) s = .next t ∧ t.events = s.events ∧ Transmits i v k (10 * a.cyclesPerBit) t :=
  ⟨_, (dataWriteStartsOrIsIgnored s i a v ha).2 hidle, rfl, _, getElem?_set_of_some ha _, rfl, rfl, rfl, hport⟩

/-- A tick short of the count only counts down (R175). -/
theorem Transmits.tick {i k n c : Nat} {v : Byte} {s : State} (h : Transmits i v k n s) (hc : c < n) :
    ∃ t, exec (.aciaTick i c) s = .next t ∧ t.events = s.events ∧ Transmits i v k (n - c) t := by
  obtain ⟨a, ha, hact, rfl, htdr, hport⟩ := h
  obtain ⟨b, env, out, hexec, hkept, -, hcounting, -⟩ := tickAdvancesTheTransmitter s i c a ha
  obtain ⟨hbusy, hcount, rfl⟩ := hcounting hact hc
  simp only [Prod.mk.injEq] at hkept
  obtain ⟨-, htdr', -, -, -, -, -, hport'⟩ := hkept
  exact ⟨_, hexec, List.append_nil _, b, getElem?_set_of_some ha b, hbusy, by omega, htdr'.trans htdr,
    hport'.trans hport⟩

/-- The tick that completes the count sends the byte (R175). -/
theorem Transmits.tick_completes {i k n c : Nat} {v : Byte} {s : State} (h : Transmits i v k n s) (hc : n ≤ c) :
    ∃ t b, exec (.aciaTick i c) s = .next t ∧ t.events = s.events ++ [.portWrite k v] ∧
      t.acias[i]? = some b ∧ b.txActive = false := by
  obtain ⟨a, ha, hact, rfl, rfl, hport⟩ := h
  obtain ⟨b, env, out, hexec, -, -, -, hexpiring⟩ := tickAdvancesTheTransmitter s i c a ha
  obtain ⟨hidle, -, hout⟩ := hexpiring hact hc
  rw [hport] at hout
  obtain rfl := hout
  exact ⟨_, b, hexec, rfl, getElem?_set_of_some ha b, hidle⟩

/-- Any ticks that together fall short of the count only count down. -/
theorem Transmits.ticks {i k : Nat} {v : Byte} : ∀ {ticks : List Nat} {n : Nat} {s : State},
    Transmits i v k n s → ticks.sum < n →
    ∃ replies t, runAll (ticks.map fun c => .aciaTick i c) s = some (replies, t) ∧ t.events = s.events ∧
      Transmits i v k (n - ticks.sum) t
  | [], _, s, h, _ => ⟨[], s, rfl, rfl, h⟩
  | c :: rest, n, s, h, hsum => by
    rw [List.sum_cons] at hsum ⊢
    obtain ⟨u, hexec, hevents, hu⟩ := h.tick (c := c) (by omega)
    obtain ⟨replies, t, hrun, hevents', ht⟩ := hu.ticks (ticks := rest) (by omega)
    rw [← Nat.sub_sub]
    exact ⟨_, t, runAll_of_next hexec hrun, hevents'.trans hevents, ht⟩

/-- Settles O40: the write starts the count, the ticks that fall short keep it, and the next one completes it. -/
theorem writtenByteReachesThePortAfterTenBitTimes : Obligations.WrittenByteReachesThePortAfterTenBitTimes := by
  intro s i k last ticks a v ha hidle hport hshort hdone
  obtain ⟨w, hwrite, hevents, hw⟩ := exec_aciaTdrW_transmits ha hidle hport v
  obtain ⟨replies, t, hrun, hevents', ht⟩ := hw.ticks hshort
  obtain ⟨u, b, hlast, hsent, hb, hready⟩ := ht.tick_completes (c := last) (by omega)
  obtain ⟨x, hx, hact, -⟩ := ht
  rw [hevents', hevents] at hsent
  exact ⟨_, t, u, x, b, runAll_of_next hwrite hrun, hevents'.trans hevents, hx, hact, hlast, hsent, hb, hready⟩

end Sys2Proof.Machine
end

section
/-! SUPPORT. The VIA's registers without a mask (R211 to R241): reads that change nothing, reads that acknowledge, and
writes that store; then the tick of both timers (R245 to R247) and the reset (R249). -/

namespace Sys2Proof.Machine

/-! ## The parts of a register -/

theorem lowByte_eq (n : Half) : lowByte n = BitVec.ofNat 8 (n.toNat % 256) :=
  BitVec.eq_of_toNat_eq (by simp)

theorem highByte_eq (n : Half) : highByte n = BitVec.ofNat 8 (n.toNat / 256) := by
  have := n.isLt
  apply BitVec.eq_of_toNat_eq
  simp only [highByte_toNat, BitVec.toNat_ofNat]
  omega

theorem clearFlag_same (f : BitVec 7) {k : Nat} (hk : k < 7) : (clearFlag f k).getLsbD k = false := by
  rw [clearFlag_bit f k hk]; simp

theorem clearFlag_other (f : BitVec 7) {k j : Nat} (hj : j < 7) (h : j ≠ k) :
    (clearFlag f k).getLsbD j = f.getLsbD j := by
  rw [clearFlag_bit f k hj]; simp [h.symm]

theorem setFlag_same (f : BitVec 7) {k : Nat} (hk : k < 7) : (setFlag f k).getLsbD k = true := by
  rw [setFlag_bit]; simp [hk]

theorem setFlag_other (f : BitVec 7) {k j : Nat} (h : j ≠ k) : (setFlag f k).getLsbD j = f.getLsbD j := by
  rw [setFlag_bit]; simp [h.symm]

/-- Below bit 7 a flag or enable byte shows the seven bits kept (R46). -/
theorem ofBool_append_low (b : Bool) (f : BitVec 7) {k : Nat} (h : k < 7) :
    (BitVec.ofBool b ++ f).getLsbD k = f.getLsbD k := by
  rw [BitVec.getLsbD_append, if_pos h]

/-- Bit 7 of a flag or enable byte is the bit put above the seven (R46). -/
theorem ofBool_append_top (b : Bool) (f : BitVec 7) : (BitVec.ofBool b ++ f).getLsbD 7 = b := by
  rw [BitVec.getLsbD_append, if_neg (by decide)]
  simp

/-- The any-interrupt value is the interrupt condition, flag by flag (R46, R248). -/
theorem viaAny_iff (v : Via) : viaAny v = true ↔ viaInterrupts v := by
  have hbits : v.ifr &&& v.ier = 0#7 ↔ ∀ k < 7, ¬ (v.ifr.getLsbD k = true ∧ v.ier.getLsbD k = true) := by
    simp [BitVec.eq_of_getLsbD_eq_iff]
  simp only [viaAny, viaInterrupts, bne_iff_ne, ne_eq, hbits, not_forall, not_not, exists_prop]

/-! ## Reads -/

/-- A register read that leaves the chip as it is changes nothing but the reply. -/
theorem viaReadOp_plain {i : Nat} {s : State} {v : Via} (h : s.vias[i]? = some v) {f : Via → Byte × Via} {b : Byte}
    (hf : f v = (b, v)) : viaReadOp i s f = .next { s with reply := .byte b } := by
  rw [viaReadOp_eq h, hf, setVia_self h]

/-- Settles O41: each of the twelve reads is plain. -/
theorem plainRegisterReadsReturnTheRegister : Obligations.PlainRegisterReadsReturnTheRegister := by
  intro s i v h
  simp only [← lowByte_eq, ← highByte_eq]
  exact ⟨viaReadOp_plain h rfl, viaReadOp_plain h rfl, viaReadOp_plain h rfl, viaReadOp_plain h rfl,
    viaReadOp_plain h rfl, viaReadOp_plain h rfl, viaReadOp_plain h rfl, viaReadOp_plain h rfl,
    viaReadOp_plain h rfl, viaReadOp_plain h rfl, viaReadOp_plain h rfl, viaReadOp_plain h rfl⟩

/-- Settles O42: the flags afterwards are those before with the timer's own cleared. -/
theorem counterLowReadsAcknowledge : Obligations.CounterLowReadsAcknowledge := by
  intro s i v h
  simp only [← lowByte_eq]
  exact ⟨⟨clearFlag v.ifr t1Bit, viaReadOp_eq h _, clearFlag_same _ (by decide),
      fun k hk => clearFlag_other _ (by omega) (Nat.ne_of_lt hk)⟩,
    ⟨clearFlag v.ifr t2Bit, viaReadOp_eq h _, clearFlag_same _ (by decide), fun _ => clearFlag_other _⟩⟩

theorem exec_viaIfrR {i : Nat} {s : State} {v : Via} (h : s.vias[i]? = some v) :
    exec (.viaIfrR i) s = .next { s with reply := .byte (ifrByte v) } :=
  viaReadOp_plain h rfl

theorem exec_viaIerR {i : Nat} {s : State} {v : Via} (h : s.vias[i]? = some v) :
    exec (.viaIerR i) s = .next { s with reply := .byte (ierByte s.params v) } :=
  viaReadOp_plain h rfl

theorem exec_viaIrq {i : Nat} {s : State} {v : Via} (h : s.vias[i]? = some v) :
    exec (.viaIrq i) s = .next { s with reply := .bool (viaAny v) } :=
  onVia_eq h _

/-- Settles O47: bit 7 above the seven flags or enables, and the condition by `viaAny_iff`. -/
theorem flagAndEnableReadsShowTheirBits : Obligations.FlagAndEnableReadsShowTheirBits := by
  intro s i v h
  refine ⟨⟨ifrByte v, exec_viaIfrR h, fun _ => ofBool_append_low _ _, ?_⟩,
    ⟨ierByte s.params v, exec_viaIerR h, fun _ => ofBool_append_low _ _, ofBool_append_top _ _⟩,
    ⟨viaAny v, exec_viaIrq h, viaAny_iff v⟩⟩
  rw [ifrByte, ofBool_append_top, viaAny_iff]

/-! ## Writes -/

/-- Settles O44: each of the five writes replaces its own register, and its offset selects it. -/
theorem plainRegisterWritesStoreTheByte : Obligations.PlainRegisterWritesStoreTheByte := by
  intro s i v d h
  exact ⟨viaWriteOp_eq h _, viaWriteOp_eq h _, viaWriteOp_eq h _, viaWriteOp_eq h _, viaWriteOp_eq h _,
    rfl, rfl, rfl, rfl, rfl⟩

/-- Settles O45: the latch with one byte replaced, which a high write also loads into the counter (R250). -/
theorem timer1WritesGoThroughTheLatch : Obligations.Timer1WritesGoThroughTheLatch := by
  intro s i v d h
  exact ⟨⟨withLowByte v.t1l d, withLowByte_toNat _ _, viaWriteOp_eq h _, viaWriteOp_eq h _⟩,
    ⟨withHighByte v.t1l d, clearFlag v.ifr t1Bit, withHighByte_toNat _ _, clearFlag_same _ (by decide),
      fun k hk => clearFlag_other _ (by omega) (Nat.ne_of_lt hk), viaWriteOp_eq h _, viaWriteOp_eq h _⟩⟩

/-- Settles O46: the counter with one byte replaced. -/
theorem timer2WritesGoToTheCounter : Obligations.Timer2WritesGoToTheCounter := by
  intro s i v d h
  exact ⟨⟨withLowByte v.t2c d, withLowByte_toNat _ _, viaWriteOp_eq h _⟩,
    ⟨withHighByte v.t2c d, clearFlag v.ifr t2Bit, withHighByte_toNat _ _, clearFlag_same _ (by decide),
      fun _ => clearFlag_other _, viaWriteOp_eq h _⟩⟩

/-! ## The tick -/

theorem viaT1Advance_stopped {c : Nat} {v : Via} (hrun : v.t1run = false) : viaT1Advance c v = v := by
  simp [viaT1Advance, hrun]

theorem viaT2Advance_stopped {c : Nat} {v : Via} (hrun : v.t2run = false) : viaT2Advance c v = v := by
  simp [viaT2Advance, hrun]

/-- A running Timer 2 that the cycles do not reach counts down (R246). -/
theorem viaT2Advance_counting {c : Nat} {v : Via} (hrun : v.t2run = true) (h : c < v.t2c.toNat) :
    viaT2Advance c v = { v with t2c := BitVec.ofNat 16 (v.t2c.toNat - c) } := by
  simp only [viaT2Advance, hrun, if_true, countdown_eq, if_neg (Nat.not_le.mpr h)]

/-- A running Timer 2 that the cycles reach sets its flag and stops at 0 (R246, D31). -/
theorem viaT2Advance_expiring {c : Nat} {v : Via} (hrun : v.t2run = true) (h : v.t2c.toNat ≤ c) :
    viaT2Advance c v = { v with ifr := setFlag v.ifr t2Bit, t2c := 0x0000#16, t2run := false } := by
  simp only [viaT2Advance, hrun, if_true, countdown_eq, if_pos h]

/-- What a countdown leaves fits the counter, and the cycles make up the difference. -/
theorem counted_toNat {n : Half} {c : Nat} (h : c < n.toNat) : (BitVec.ofNat 16 (n.toNat - c)).toNat + c = n.toNat := by
  have := n.isLt
  rw [BitVec.toNat_ofNat]
  omega

/-- `b` is `a` but for the counter, the run bit and the flag of Timer 1. -/
def Timer1Only (a b : Via) : Prop :=
  b = { a with t1c := b.t1c, t1run := b.t1run, ifr := b.ifr } ∧ ∀ k ≠ 6, b.ifr.getLsbD k = a.ifr.getLsbD k

/-- `b` is `a` but for the counter, the run bit and the flag of Timer 2. -/
def Timer2Only (a b : Via) : Prop :=
  b = { a with t2c := b.t2c, t2run := b.t2run, ifr := b.ifr } ∧ ∀ k ≠ 5, b.ifr.getLsbD k = a.ifr.getLsbD k

theorem viaT1Advance_timer1Only (c : Nat) (v : Via) : Timer1Only v (viaT1Advance c v) := by
  cases hrun : v.t1run with
  | false => rw [viaT1Advance_stopped hrun]; exact ⟨rfl, fun _ _ => rfl⟩
  | true =>
    rcases Nat.lt_or_ge c v.t1c.toNat with hc | hc
    · rw [viaT1Advance_counting hrun hc]; exact ⟨rfl, fun _ _ => rfl⟩
    · rw [viaT1Advance_expiring hrun hc]; exact ⟨rfl, fun _ => setFlag_other _⟩

theorem viaT2Advance_timer2Only (c : Nat) (v : Via) : Timer2Only v (viaT2Advance c v) := by
  cases hrun : v.t2run with
  | false => rw [viaT2Advance_stopped hrun]; exact ⟨rfl, fun _ _ => rfl⟩
  | true =>
    rcases Nat.lt_or_ge c v.t2c.toNat with hc | hc
    · rw [viaT2Advance_counting hrun hc]; exact ⟨rfl, fun _ _ => rfl⟩
    · rw [viaT2Advance_expiring hrun hc]; exact ⟨rfl, fun _ => setFlag_other _⟩

/-- Timer 1's part and then Timer 2's change the counters, the run bits and the flags (R247). -/
theorem Timer1Only.trans {a b d : Via} (h1 : Timer1Only a b) (h2 : Timer2Only b d) :
    d = { a with t1c := b.t1c, t1run := b.t1run, t2c := d.t2c, t2run := d.t2run, ifr := d.ifr } := by
  obtain ⟨hfirst, -⟩ := h1
  obtain ⟨hsecond, -⟩ := h2
  rw [hsecond, hfirst]

/-- Timer 1 has no part in Timer 2 (R245). -/
theorem viaT1Advance_timer2 (c : Nat) (v : Via) :
    (viaT1Advance c v).t2c = v.t2c ∧ (viaT1Advance c v).t2run = v.t2run ∧
      (viaT1Advance c v).ifr.getLsbD 5 = v.ifr.getLsbD 5 := by
  obtain ⟨hframe, hflags⟩ := viaT1Advance_timer1Only c v
  exact ⟨(congrArg Via.t2c hframe :), (congrArg Via.t2run hframe :), hflags 5 (by decide)⟩

/-- A tick of one VIA, with the counter and the run bit of Timer 1 as Timer 1's part leaves them (R247). -/
theorem exec_viaTick {i : Nat} {s : State} {v : Via} (h : s.vias[i]? = some v) (c : Nat) :
    exec (.viaTick i c) s = .next { s with
      vias := s.vias.set i { v with
        t1c := (viaT1Advance c v).t1c
        t1run := (viaT1Advance c v).t1run
        t2c := (viaTickStep c v).t2c
        t2run := (viaTickStep c v).t2run
        ifr := (viaTickStep c v).ifr }
      reply := .unit } := by
  have hframe := (viaT1Advance_timer1Only c v).trans (viaT2Advance_timer2Only c (viaT1Advance c v))
  rw [← viaTickStep] at hframe
  rw [← hframe]
  exact viaWriteOp_eq h _

/-- Settles O49: Timer 1 advances the chip as it stands, Timer 2 one that still has its own counter; each is stopped,
counting or expiring. -/
theorem viaTickCountsTheTimersDown : Obligations.ViaTickCountsTheTimersDown := by
  intro s i c v h
  obtain ⟨-, hothers1⟩ := viaT1Advance_timer1Only c v
  obtain ⟨-, hothers2⟩ := viaT2Advance_timer2Only c (viaT1Advance c v)
  have hlow : ∀ k < 5, (viaTickStep c v).ifr.getLsbD k = v.ifr.getLsbD k := fun k hk =>
    (hothers2 k (by omega)).trans (hothers1 k (by omega))
  have hflag1 : (viaTickStep c v).ifr.getLsbD 6 = (viaT1Advance c v).ifr.getLsbD 6 := hothers2 6 (by decide)
  obtain ⟨ht2c, ht2run, hflag2⟩ := viaT1Advance_timer2 c v
  refine ⟨_, _, _, _, _, exec_viaTick h c, hlow, ?_, ?_, ?_, ?_, ?_, ?_⟩
  · intro hrun
    rw [hflag1, viaT1Advance_stopped hrun]
    exact ⟨rfl, hrun, rfl⟩
  · intro hrun hc
    rw [hflag1, viaT1Advance_counting hrun hc]
    exact ⟨counted_toNat hc, hrun, rfl⟩
  · intro hrun hc
    rw [hflag1, viaT1Advance_expiring hrun hc]
    exact ⟨setFlag_same _ (by decide), fun hmode => ⟨if_pos hmode, hmode⟩,
      fun hmode => ⟨if_neg (Bool.eq_false_iff.mp hmode), hmode⟩⟩
  · intro hrun
    rw [← ht2run] at hrun
    rw [viaTickStep, viaT2Advance_stopped hrun]
    exact ⟨ht2c, hrun, hflag2⟩
  · intro hrun hc
    rw [← ht2run] at hrun
    rw [← ht2c] at hc ⊢
    rw [viaTickStep, viaT2Advance_counting hrun hc]
    exact ⟨counted_toNat hc, hrun, hflag2⟩
  · intro hrun hc
    rw [← ht2run] at hrun
    rw [← ht2c] at hc
    rw [viaTickStep, viaT2Advance_expiring hrun hc]
    exact ⟨setFlag_same _ (by decide), rfl, rfl⟩

/-! ## The reset -/

/-- The enable register of a reset VIA reads 0 but for bit 7 (R239, R249). -/
theorem ierByte_viaFresh (p : Config.Params) : ierByte p viaFresh = if p.ierReadBit7 then 0x80#8 else 0x00#8 := by
  rw [ierByte]
  cases p.ierReadBit7 <;> rfl

/-- Settles O50: the reset puts the fresh record back, and the three reports are then those of that record. -/
theorem viaResetClearsEveryField : Obligations.ViaResetClearsEveryField := by
  intro s i v h
  have hreset : exec (.viaReset i) s = .next { setVia i viaFresh s with reply := .unit } := viaWriteOp_eq h _
  refine ⟨hreset, ?_⟩
  have hfresh (r : Reply) : ({ setVia i viaFresh s with reply := r } : State).vias[i]? = some viaFresh :=
    getElem?_set_of_some h viaFresh
  rw [← ierByte_viaFresh]
  exact ⟨_, runAll_of_next hreset <| runAll_of_next (exec_viaIfrR (hfresh _)) <|
    runAll_of_next (exec_viaIerR (hfresh _)) <| runAll_of_next (exec_viaIrq (hfresh _)) rfl⟩

end Sys2Proof.Machine
end

section
/-! SUPPORT. The interrupt aggregator (R280 to R287): one source in or out of a set, the reconciliation of the peripheral
sources, and the line that a `SYS.STEP` leaves. -/

namespace Sys2Proof.Machine

/-! ## One source in or out of a set -/

/-- An operation that touches the aggregator and the events alone is known by what it makes of these. -/
theorem AggOnly.finish_eq {s t : State} {g : Agg} {l : List Event} (h : AggOnly s t) (hagg : t.agg = g)
    (hevents : t.events = l) (r : Reply) : finish t r = .next { s with agg := g, events := l, reply := r } := by
  subst hagg hevents
  exact congrArg (fun u : State => Host.Outcome.next { u with reply := r }) h

/-- `AGG.TRIGIRQ` as one state (R280). -/
theorem exec_aggTrigIrq (src : Source) (s : State) :
    exec (.aggTrigIrq src) s = .next { s with
      agg := { s.agg with irq := s.agg.irq.insert src }
      events := if s.agg.irq = [] then s.events ++ [.cpuTriggerIrq] else s.events
      reply := .unit } :=
  (raiseIrq_aggOnly src s).finish_eq (raiseIrq_agg src s) (raiseIrq_events src s) .unit

/-- `AGG.TRIGNMI` as one state (R281). -/
theorem exec_aggTrigNmi (src : Source) (s : State) :
    exec (.aggTrigNmi src) s = .next { s with
      agg := { s.agg with nmi := s.agg.nmi.insert src }
      events := if s.agg.nmi = [] then s.events ++ [.cpuTriggerNmi] else s.events
      reply := .unit } :=
  (raiseNmi_aggOnly src s).finish_eq (raiseNmi_agg src s) (raiseNmi_events src s) .unit

/-- `AGG.CLRIRQ` as one state (R282, D38). -/
theorem exec_aggClrIrq (src : Source) (s : State) :
    exec (.aggClrIrq src) s = .next { s with
      agg := { s.agg with irq := s.agg.irq.filter (fun x => x != src) }
      events := if s.agg.irq ≠ [] ∧ s.agg.irq.filter (fun x => x != src) = [] then s.events ++ [.cpuClearIrq]
        else s.events
      reply := .unit } :=
  (dropIrq_aggOnly src s).finish_eq (dropIrq_agg src s) (dropIrq_events src s) .unit

/-- Settles O52: the source is inserted into its set, and the two selectors are rows of the decoder's table. -/
theorem triggersFireOnceUntilTheSetEmpties : Obligations.TriggersFireOnceUntilTheSetEmpties := by
  intro s src
  refine ⟨⟨_, exec_aggTrigIrq src s, fun x => List.mem_insert_iff⟩,
    ⟨_, exec_aggTrigNmi src s, fun x => List.mem_insert_iff⟩, ?_⟩
  rintro args rfl
  simp [decode, decodeM, wordField]

/-- Settles O53: the source is filtered out of its set. -/
theorem clearsDropTheLineWhenTheSetEmpties : Obligations.ClearsDropTheLineWhenTheSetEmpties := by
  intro s src
  have hleft (l : List Source) (x : Source) : x ∈ l.filter (fun x => x != src) ↔ x ∈ l ∧ x ≠ src := by simp
  exact ⟨⟨_, exec_aggClrIrq src s, hleft _⟩, ⟨_, rfl, hleft _⟩⟩

/-! ## The pending flags -/

theorem irqPending_iff (g : Agg) : irqPending g = true ↔ ∃ x, x ∈ g.irq := by
  rw [irqPending, Bool.not_eq_true', List.isEmpty_eq_false_iff_exists_mem]

theorem nmiPending_iff (g : Agg) : nmiPending g = true ↔ ∃ x, x ∈ g.nmi := by
  rw [nmiPending, Bool.not_eq_true', List.isEmpty_eq_false_iff_exists_mem]

/-- Settles O55: the reset emits nothing (D41), and the two questions answer the pending flags. -/
theorem pendingFlagsAreSetNonemptiness : Obligations.PendingFlagsAreSetNonemptiness := fun s =>
  ⟨rfl, ⟨_, rfl, irqPending_iff s.agg⟩, ⟨_, rfl, nmiPending_iff s.agg⟩⟩

/-! ## The members of the IRQ set after `AGG.UPDATE` (R284) -/

/-- The additions bring in the listed peripherals. -/
theorem mem_addReporting (x : Source) : ∀ (names : List String) (s : State),
    x ∈ (addReporting names s).agg.irq ↔ (∃ n ∈ names, x = .peripheral n) ∨ x ∈ s.agg.irq
  | [], s => by simp [addReporting]
  | m :: rest, s => by
    have hone : x ∈ (if s.agg.irq.contains (.peripheral m) then s else raiseIrq (.peripheral m) s).agg.irq ↔
        x = .peripheral m ∨ x ∈ s.agg.irq := by
      split
      · have hm : Source.peripheral m ∈ s.agg.irq := List.contains_iff_mem.mp ‹_›
        exact ⟨.inr, fun h => h.elim (fun h => h ▸ hm) id⟩
      · exact mem_raiseIrq _ x s
    have hrest := mem_addReporting x rest
      (if s.agg.irq.contains (.peripheral m) then s else raiseIrq (.peripheral m) s)
    rw [hone] at hrest
    rw [addReporting, List.foldl_cons, ← addReporting, hrest, List.exists_mem_cons_iff, or_left_comm, or_assoc]

/-- Removals take out the named peripherals. -/
theorem mem_drops (x : Source) : ∀ (names : List String) (s : State),
    x ∈ (names.foldl (fun t n => dropIrq (.peripheral n) t) s).agg.irq ↔
      x ∈ s.agg.irq ∧ ∀ n ∈ names, x ≠ .peripheral n
  | [], s => by simp
  | m :: rest, s => by
    rw [List.foldl_cons, mem_drops x rest, mem_dropIrq, List.forall_mem_cons, and_assoc]

/-- Listed peripherals are brought in, and the others that stand in the set are the stale ones. -/
theorem peripheral_mem_aggUpdateAll (names : List String) (s : State) (n : String) :
    Source.peripheral n ∈ (aggUpdateAll names s).agg.irq ↔ n ∈ names := by
  rw [aggUpdateAll, dropStale, mem_drops]
  simp only [mem_staleNames, mem_addReporting, ne_eq, Source.peripheral.injEq, exists_eq_right']
  constructor
  · rintro ⟨hin, hkept⟩
    by_contra hn
    exact hkept n ⟨hin, hn⟩ rfl
  · intro hn
    exact ⟨.inl hn, fun m ⟨_, hm⟩ he => hm (he ▸ hn)⟩

/-- A source that is no peripheral is neither brought in nor taken out. -/
theorem manual_mem_aggUpdateAll (names : List String) (s : State) {x : Source} (hx : ∀ n, x ≠ .peripheral n) :
    x ∈ (aggUpdateAll names s).agg.irq ↔ x ∈ s.agg.irq := by
  rw [aggUpdateAll, dropStale, mem_drops, mem_addReporting]
  simp [hx]

/-- No report enters the NMI set (D39). -/
theorem aggUpdateAll_nmi (names : List String) (s : State) : (aggUpdateAll names s).agg.nmi = s.agg.nmi :=
  aggUpdateAll_relates (R := fun s t => t.agg.nmi = s.agg.nmi) (fun _ => rfl) (fun h1 h2 => h2.trans h1)
    (fun src s => by rw [raiseIrq_agg]) (fun src s => by rw [dropIrq_agg]) names s

/-! ## The edge of `AGG.UPDATE` -/

/-- The event for the change of the IRQ set from `before` to `after` (R280, D38). -/
def edgeOf (before after : List Source) : List Event :=
  if before = [] ∧ after ≠ [] then [.cpuTriggerIrq]
  else if before ≠ [] ∧ after = [] then [.cpuClearIrq] else []

/-- Between `s` and `t` exactly the event for the change of the IRQ set was emitted. -/
def EmitsItsEdge (s t : State) : Prop := t.events = s.events ++ edgeOf s.agg.irq t.agg.irq

theorem edgeOf_congr {a b c d : List Source} (hac : a = [] ↔ c = []) (hbd : b = [] ↔ d = []) :
    edgeOf a b = edgeOf c d := by
  simp only [edgeOf, ne_eq, hac, hbd]

theorem edgeOf_level {a b : List Source} (h : b = [] ↔ a = []) : edgeOf a b = [] := by
  by_cases ha : a = [] <;> simp [edgeOf, h, ha]

theorem EmitsItsEdge.refl (s : State) : EmitsItsEdge s s := by
  rw [EmitsItsEdge, edgeOf_level .rfl, List.append_nil]

/-- Two changes one after another emit the edge of the whole, unless the line goes and comes back. -/
theorem EmitsItsEdge.trans {s t u : State} (h1 : EmitsItsEdge s t) (h2 : EmitsItsEdge t u)
    (hback : (u.agg.irq = [] ↔ s.agg.irq = []) → (t.agg.irq = [] ↔ s.agg.irq = [])) : EmitsItsEdge s u := by
  rw [EmitsItsEdge, h2, h1, List.append_assoc]
  congr 1
  by_cases hst : t.agg.irq = [] ↔ s.agg.irq = []
  · rw [edgeOf_level hst, List.nil_append, edgeOf_congr hst .rfl]
  · have htu : u.agg.irq = [] ↔ t.agg.irq = [] := by tauto
    rw [edgeOf_level htu, List.append_nil, edgeOf_congr .rfl htu]

theorem raiseIrq_irq_ne_nil (src : Source) (s : State) : (raiseIrq src s).agg.irq ≠ [] :=
  List.ne_nil_of_mem ((mem_raiseIrq src src s).mpr (.inl rfl))

theorem raiseIrq_emitsItsEdge (src : Source) (s : State) : EmitsItsEdge s (raiseIrq src s) := by
  have hup := raiseIrq_irq_ne_nil src s
  rw [EmitsItsEdge, raiseIrq_events]
  by_cases h : s.agg.irq = []
  · rw [if_pos h, edgeOf, if_pos ⟨h, hup⟩]
  · rw [if_neg h, edgeOf_level (iff_of_false hup h), List.append_nil]

theorem dropIrq_emitsItsEdge (src : Source) (s : State) : EmitsItsEdge s (dropIrq src s) := by
  rw [EmitsItsEdge, dropIrq_events, dropIrq_agg]
  by_cases h : s.agg.irq ≠ [] ∧ s.agg.irq.filter (fun x => x != src) = []
  · rw [if_pos h, edgeOf, if_neg fun hs => h.1 hs.1, if_pos h]
  · have hsame : s.agg.irq.filter (fun x => x != src) = [] ↔ s.agg.irq = [] :=
      ⟨fun hleft => by_contra fun hs => h ⟨hs, hleft⟩, fun hs => by rw [hs, List.filter_nil]⟩
    rw [if_neg h, edgeOf_level hsame, List.append_nil]

/-- Additions can only raise the line. -/
theorem addReporting_emitsItsEdge (names : List String) (s : State) :
    (s.agg.irq ≠ [] → (addReporting names s).agg.irq ≠ []) ∧ EmitsItsEdge s (addReporting names s) := by
  refine foldl_relates (R := fun s t => (s.agg.irq ≠ [] → t.agg.irq ≠ []) ∧ EmitsItsEdge s t)
    (fun s => ⟨id, .refl s⟩)
    (fun ⟨hup1, hedge1⟩ ⟨hup2, hedge2⟩ => ⟨hup2 ∘ hup1, hedge1.trans hedge2 (by tauto)⟩) (fun t n => ?_) names s
  split
  · exact ⟨id, .refl t⟩
  · exact ⟨fun _ => raiseIrq_irq_ne_nil _ t, raiseIrq_emitsItsEdge _ t⟩

/-- Removals can only lower the line. -/
theorem dropStale_emitsItsEdge (names : List String) (s : State) :
    (s.agg.irq = [] → (dropStale names s).agg.irq = []) ∧ EmitsItsEdge s (dropStale names s) :=
  foldl_relates (R := fun s t => (s.agg.irq = [] → t.agg.irq = []) ∧ EmitsItsEdge s t)
    (fun s => ⟨id, .refl s⟩)
    (fun ⟨hdown1, hedge1⟩ ⟨hdown2, hedge2⟩ => ⟨hdown2 ∘ hdown1, hedge1.trans hedge2 (by tauto)⟩)
    (fun t n => ⟨fun h => by simp [h], dropIrq_emitsItsEdge (.peripheral n) t⟩) _ s

/-- The line never rises and falls within one update: what the additions bring in is listed, so no removal takes it
out. -/
theorem aggUpdateAll_emitsItsEdge (names : List String) (s : State) : EmitsItsEdge s (aggUpdateAll names s) := by
  obtain ⟨-, hadd⟩ := addReporting_emitsItsEdge names s
  obtain ⟨hdown, hdrop⟩ := dropStale_emitsItsEdge names (addReporting names s)
  refine hadd.trans hdrop fun hsame => ⟨fun h => ?_, fun h => ?_⟩
  · exact hsame.mp (hdown h)
  · cases names with
    | nil => exact h
    | cons n rest =>
      have hin := (peripheral_mem_aggUpdateAll (n :: rest) s n).mpr List.mem_cons_self
      exact absurd (hsame.mpr h) (List.ne_nil_of_mem hin)

/-- Settles O54: the update touches the IRQ set and the events alone; its members and its edge are as above. -/
theorem updateReconcilesThePeripheralSources : Obligations.UpdateReconcilesThePeripheralSources := by
  intro s names
  refine ⟨(aggUpdateAll names s).agg.irq, edgeOf s.agg.irq (aggUpdateAll names s).agg.irq, ?_,
    peripheral_mem_aggUpdateAll names s, manual_mem_aggUpdateAll names s nofun,
    fun tag => manual_mem_aggUpdateAll names s nofun, rfl⟩
  exact (aggUpdateAll_aggOnly names s).finish_eq (congrArg (Agg.mk _) (aggUpdateAll_nmi names s))
    (aggUpdateAll_emitsItsEdge names s) .unit

/-! ## The line after a `SYS.STEP` -/

/-- The engine's accesses leave both source sets alone (R305). -/
theorem runAccesses_agg : ∀ (l : List Access) (s : State), (runAccesses l s).2.agg = s.agg
  | [], _ => rfl
  | .read addr :: rest, s => (runAccesses_agg rest _).trans (devicesOnly_agg (busReadAt_devicesOnly addr s))
  | .write addr v :: rest, s => by
    refine (runAccesses_agg rest (busWriteAt addr v s)).trans ?_
    rcases busWriteAt_cases addr v s with h | ⟨ram, h⟩
    · exact devicesOnly_agg h
    · rw [h]

/-- A peripheral's report does not depend on the aggregator or the events. -/
theorem AggOnly.pIrq_eq {s t : State} (h : AggOnly s t) (p : PeriphRef) : pIrq p t = pIrq p s := by
  rw [AggOnly] at h
  rw [h]
  rfl

/-- The collected names are those of the bindings whose peripheral reports (R137). -/
theorem mem_hubCollectNames_iff {s : State} {n : String} :
    n ∈ hubCollectNames s ↔ ∃ b ∈ s.hub.bindings, b.name = n ∧ pIrq b.periph s = true := by
  simp only [hubCollectNames, List.mem_map, List.mem_filter, and_assoc]
  exact exists_congr fun b => and_congr_right fun _ => and_comm

/-- The update is of the names collected after the tick, and leaves every peripheral's report as it was (D43). -/
theorem peripheral_mem_afterEngine (c : Nat) (s : State) (n : String) :
    Source.peripheral n ∈ (afterEngine c s).agg.irq ↔
      ∃ b ∈ (afterEngine c s).hub.bindings, b.name = n ∧ pIrq b.periph (afterEngine c s) = true := by
  have hupd := aggUpdateAll_aggOnly (hubCollectNames (hubTickAll c s)) (hubTickAll c s)
  simp only [afterEngine, peripheral_mem_aggUpdateAll, mem_hubCollectNames_iff, hupd.wiringKept.hub, hupd.pIrq_eq]

theorem manual_mem_afterEngine (c : Nat) (s : State) {x : Source} (hx : ∀ n, x ≠ .peripheral n) :
    x ∈ (afterEngine c s).agg.irq ↔ x ∈ s.agg.irq := by
  rw [afterEngine, manual_mem_aggUpdateAll _ _ hx, devicesOnly_agg (hubTickAll_devicesOnly c s)]

theorem afterEngine_nmi (c : Nat) (s : State) : (afterEngine c s).agg.nmi = s.agg.nmi := by
  rw [afterEngine, aggUpdateAll_nmi, devicesOnly_agg (hubTickAll_devicesOnly c s)]

/-- Settles O57: the accesses leave the sets alone, and what follows them leaves the line at the reports; in the
well-formed state reached, a binding reports just when its peripheral does. -/
theorem stepLeavesTheLineAtTheReports : Obligations.StepLeavesTheLineAtTheReports := by
  intro s t accesses c hs hc h
  obtain ⟨-, -, -, -, -, ⟨-, hrefs⟩, -⟩ := exec_wf hs h
  obtain ⟨hzero, -⟩ | ⟨-, rfl⟩ := execSysStep_next h
  · exact absurd hzero hc
  rw [← runAccesses_agg accesses s]
  refine ⟨fun n => (peripheral_mem_afterEngine c _ n).trans ?_, manual_mem_afterEngine c _ nofun,
    fun tag => manual_mem_afterEngine c _ nofun, afterEngine_nmi c _⟩
  exact exists_congr fun b => and_congr_right fun hb => and_congr_right fun _ => (reports_iff (hrefs b hb)).symm

end Sys2Proof.Machine
end

section
/-! SUPPORT. `SYS.STEP` (R305, R309) as its parts: the engine's accesses as bus operations, then the tick, the collection
and the update, none of which reads what the part before replied. -/

namespace Sys2Proof.Machine

/-! ## The last reply is never read -/

/-- The state with another last reply. -/
def withReply (r : Reply) (s : State) : State := { s with reply := r }

@[simp] theorem withReply_withReply (q r : Reply) (s : State) : withReply q (withReply r s) = withReply q s := rfl

/-- The operation does alike whatever was replied last, and leaves that reply in place. -/
def IgnoresReply (f : State → State) : Prop := ∀ r s, f (withReply r s) = withReply r (f s)

theorem IgnoresReply.foldl {α : Type} {f : State → α → State} (hf : ∀ x, IgnoresReply fun s => f s x)
    (l : List α) : IgnoresReply fun s => l.foldl f s := fun r _ => List.foldl_hom (withReply r) fun t x => hf x r t

theorem pRead_withReply (p : PeriphRef) (off : Nat) (r : Reply) (s : State) :
    pRead p off (withReply r s) = ((pRead p off s).1, withReply r (pRead p off s).2) := by
  cases p with
  | acia i => simp only [pRead, withReply]; cases s.acias[i]? <;> rfl
  | via i => simp only [pRead, withReply]; cases s.vias[i]? <;> rfl

theorem pWrite_ignoresReply (p : PeriphRef) (off : Nat) (d : Byte) : IgnoresReply (pWrite p off d) := by
  intro r s
  cases p with
  | acia i => simp only [pWrite, withReply]; cases s.acias[i]? <;> rfl
  | via i => simp only [pWrite, withReply]; cases s.vias[i]? <;> rfl

theorem busReadAt_withReply (addr : Nat) (r : Reply) (s : State) :
    busReadAt addr (withReply r s) = ((busReadAt addr s).1, withReply r (busReadAt addr s).2) := by
  have hrtr : (withReply r s).rtr = s.rtr := rfl
  simp only [busReadAt, hrtr]
  cases resolve s.rtr (reduceAddr addr) with
  | io g => exact pRead_withReply g.periph _ r s
  | rom | ram | unmapped => rfl

theorem busWriteAt_ignoresReply (addr v : Nat) : IgnoresReply (busWriteAt addr v) := by
  intro r s
  have hrtr : (withReply r s).rtr = s.rtr := rfl
  simp only [busWriteAt, hrtr]
  cases resolve s.rtr (reduceAddr addr) with
  | io g => exact pWrite_ignoresReply g.periph _ _ r s
  | rom | ram | unmapped => rfl

theorem raiseIrq_ignoresReply (src : Source) : IgnoresReply (raiseIrq src) := fun r s => by
  simp only [raiseIrq, apply_ite (withReply r)]
  rfl

theorem dropIrq_ignoresReply (src : Source) : IgnoresReply (dropIrq src) := fun r s => by
  simp only [dropIrq, apply_ite (withReply r)]
  rfl

theorem addReporting_ignoresReply (names : List String) : IgnoresReply (addReporting names) := by
  refine .foldl (fun n r s => ?_) names
  rw [apply_ite (withReply r), ← raiseIrq_ignoresReply]
  rfl

theorem dropStale_ignoresReply (names : List String) : IgnoresReply (dropStale names) := fun r s =>
  IgnoresReply.foldl (fun n => dropIrq_ignoresReply (.peripheral n)) (staleNames s.agg names) r s

theorem aggUpdateAll_ignoresReply (names : List String) : IgnoresReply (aggUpdateAll names) := fun r s => by
  rw [aggUpdateAll, addReporting_ignoresReply, dropStale_ignoresReply, aggUpdateAll]

theorem hubTickAll_ignoresReply (c : Nat) : IgnoresReply (hubTickAll c) := fun r s =>
  IgnoresReply.foldl (fun b r t => pTick_withReply b.periph c t r) s.hub.bindings r s

theorem hubCollectNames_withReply (r : Reply) (s : State) : hubCollectNames (withReply r s) = hubCollectNames s := rfl

theorem afterEngine_ignoresReply (c : Nat) : IgnoresReply (afterEngine c) := fun r s => by
  rw [afterEngine, hubTickAll_ignoresReply, hubCollectNames_withReply, aggUpdateAll_ignoresReply, afterEngine]

/-! ## The engine's accesses -/

/-- The accesses of the engine do not read the last reply. -/
theorem runAccesses_withReply : ∀ (l : List Access) (r : Reply) (s : State),
    runAccesses l (withReply r s) = ((runAccesses l s).1, withReply r (runAccesses l s).2)
  | [], _, _ => rfl
  | .read addr :: rest, r, s => by
    simp only [runAccesses, busReadAt_withReply, runAccesses_withReply rest]
  | .write addr v :: rest, r, s => by
    rw [runAccesses, busWriteAt_ignoresReply, runAccesses_withReply rest, runAccesses]

/-- The bus operations of the accesses, one after another, are the engine's run, up to the last reply; their replies
carry the bytes it was given (R305). -/
theorem runAll_accesses : ∀ (l : List Access) (s : State), ∃ replies r,
    runAll (l.map accessOp) s = some (replies, withReply r (runAccesses l s).2) ∧
      replyBytes replies = (runAccesses l s).1
  | [], s => ⟨[], s.reply, rfl, rfl⟩
  | .read addr :: rest, s => by
    obtain ⟨replies, r, hrun, hbytes⟩ :=
      runAll_accesses rest (withReply (.byte (busReadAt addr s).1) (busReadAt addr s).2)
    rw [runAccesses_withReply] at hrun hbytes
    exact ⟨_, r, runAll_of_next (i := .busRead addr) rfl hrun, congrArg _ hbytes⟩
  | .write addr v :: rest, s => by
    obtain ⟨replies, r, hrun, hbytes⟩ := runAll_accesses rest (withReply .unit (busWriteAt addr v s))
    rw [runAccesses_withReply] at hrun hbytes
    exact ⟨_, r, runAll_of_next (i := .busWrite addr v) rfl hrun, hbytes⟩

/-! ## The step -/

/-- A step of 0 cycles ends after the engine's accesses (R309). -/
theorem exec_sysStep_halted (l : List Access) (s : State) :
    exec (.sysStep l 0) s = .next (withReply (.halted (runAccesses l s).1) (runAccesses l s).2) := rfl

/-- A step of at least one cycle goes on to the tick and the update (R305). -/
theorem exec_sysStep_ran (l : List Access) {c : Nat} (hc : c ≠ 0) (s : State) :
    exec (.sysStep l c) s = .next (withReply (.ran c (runAccesses l s).1) (afterEngine c (runAccesses l s).2)) :=
  if_neg hc

theorem exec_aggUpdate (names : List String) (s : State) :
    exec (.aggUpdate names) s = .next (withReply .unit (aggUpdateAll names s)) := rfl

/-- The tick, the collection and the update of the collected names, one after another, are what a step does after the
engine (D43). -/
theorem exec_parts_afterEngine (c : Nat) (s : State) : ∃ u names,
    runAll [.hubTick c, .hubCollect] s = some ([.unit, .names names], u) ∧
      exec (.aggUpdate names) u = .next (withReply .unit (afterEngine c s)) := by
  refine ⟨withReply (.names (hubCollectNames (hubTickAll c s))) (hubTickAll c s),
    hubCollectNames (hubTickAll c s), rfl, ?_⟩
  rw [exec_aggUpdate, aggUpdateAll_ignoresReply, withReply_withReply, afterEngine]

/-- Settles O56: the accesses are the bus operations, and what follows them are the other parts; none of them reads the
reply of the part before. -/
theorem systemStepIsItsPartsInOrder : Obligations.SystemStepIsItsPartsInOrder := by
  intro s accesses c
  obtain ⟨replies, r, hrun, hbytes⟩ := runAll_accesses accesses s
  refine ⟨replies, _, hrun, ?_, fun hc => ?_⟩
  · rintro rfl
    rw [exec_sysStep_halted, hbytes]
    rfl
  · obtain ⟨u, names, hparts, hupdate⟩ := exec_parts_afterEngine c (withReply r (runAccesses accesses s).2)
    rw [afterEngine_ignoresReply, withReply_withReply] at hupdate
    refine ⟨u, _, names, hparts, hupdate, ?_⟩
    rw [exec_sysStep_ran accesses hc, hbytes]
    rfl

end Sys2Proof.Machine
end

section
/-! SUPPORT. `SYS.RESET` (R308) as the resets of the bound peripherals, and what these leave in the instances. -/

namespace Sys2Proof.Machine

/-! ## One reset -/

theorem pReset_ignoresReply (p : PeriphRef) : IgnoresReply (pReset p) := by
  intro r s
  cases p with
  | acia i => simp only [pReset, withReply]; cases s.acias[i]? <;> rfl
  | via i => simp only [pReset, withReply]; cases s.vias[i]? <;> rfl

/-- The reset operation of a peripheral of the system is the contract's reset (R181, R249). -/
theorem exec_resetOp {p : PeriphRef} {s : State} (hp : periphExists s p = true) :
    exec (resetOp p) s = .next (withReply .unit (pReset p s)) := by
  rcases periph_cases p s with ⟨i, a, rfl, h⟩ | ⟨i, v, rfl, h⟩ | h
  · rw [pReset_acia h]
    exact onAcia_eq h _
  · rw [pReset_via h]
    exact viaWriteOp_eq h _
  · rw [hp] at h
    cases h

/-- From `s` to `t` only the peripheral instances may differ. -/
def InstancesOnly (s t : State) : Prop := t = { s with acias := t.acias, vias := t.vias }

theorem InstancesOnly.trans {s t u : State} (h1 : InstancesOnly s t) (h2 : InstancesOnly t u) : InstancesOnly s u := by
  rw [InstancesOnly, h1] at h2
  exact h2

theorem InstancesOnly.kept {s t : State} (h : InstancesOnly s t) :
    t.rtr = s.rtr ∧ t.hub = s.hub ∧ t.env = s.env ∧ t.events = s.events := by
  rw [h]
  exact ⟨rfl, rfl, rfl, rfl⟩

theorem pReset_instancesOnly (p : PeriphRef) (s : State) : InstancesOnly s (pReset p s) := by
  rcases periph_cases p s with ⟨i, a, rfl, h⟩ | ⟨i, v, rfl, h⟩ | h
  · rw [pReset_acia h]
    rfl
  · rw [pReset_via h]
    rfl
  · obtain ⟨-, -, hreset, -, -⟩ := periph_absent h 0 0 0
    rw [hreset]
    rfl

/-! ## The reset values -/

/-- Putting back an element with a property keeps that an element has it. -/
theorem exists_getElem?_set {α : Type} {P : α → Prop} {l : List α} {i : Nat} {y : α}
    (h : ∃ x, l[i]? = some x ∧ P x) (hy : P y) (j : Nat) : ∃ x, (l.set j y)[i]? = some x ∧ P x := by
  by_cases hij : j = i
  · obtain ⟨x, hx, -⟩ := h
    subst hij
    exact ⟨y, getElem?_set_of_some hx y, hy⟩
  · rwa [List.getElem?_set_ne hij]

/-- The peripheral exists and is as a reset leaves it (R181, R249). -/
def AtReset (s : State) : PeriphRef → Prop
  | .acia i => ∃ a, s.acias[i]? = some a ∧ ∃ before, a = aciaResetState before
  | .via i => ∃ v, s.vias[i]? = some v ∧ v = viaFresh

theorem pReset_atReset {p : PeriphRef} {s : State} (hp : periphExists s p = true) : AtReset (pReset p s) p := by
  rcases periph_cases p s with ⟨i, a, rfl, h⟩ | ⟨i, v, rfl, h⟩ | h
  · rw [pReset_acia h]
    exact ⟨_, getElem?_set_of_some h _, a, rfl⟩
  · rw [pReset_via h]
    exact ⟨_, getElem?_set_of_some h _, rfl⟩
  · rw [hp] at h
    cases h

/-- No reset takes a peripheral away from its reset values. -/
theorem AtReset.pReset {p : PeriphRef} {s : State} (h : AtReset s p) (q : PeriphRef) : AtReset (pReset q s) p := by
  rcases periph_cases q s with ⟨j, b, rfl, hj⟩ | ⟨j, w, rfl, hj⟩ | hq
  · rw [pReset_acia hj]
    cases p with
    | acia i => exact exists_getElem?_set h ⟨b, rfl⟩ j
    | via i => exact h
  · rw [pReset_via hj]
    cases p with
    | acia i => exact h
    | via i => exact exists_getElem?_set h rfl j
  · obtain ⟨-, -, hreset, -, -⟩ := periph_absent hq 0 0 0
    rwa [hreset]

/-! ## The resets of a list of bindings -/

/-- The contract's resets of the peripherals of a list, in list order. -/
def resetEach (l : List Binding) (s : State) : State := l.foldl (fun t b => pReset b.periph t) s

/-- `SYS.RESET` resets what is bound, empties both sets, and emits `cpu.reset()` (R308). -/
theorem exec_sysReset (s : State) : exec .sysReset s = .next { resetEach s.hub.bindings s with
    agg := { irq := [], nmi := [] }
    events := (resetEach s.hub.bindings s).events ++ [.cpuReset]
    reply := .unit } := rfl

theorem resetEach_ignoresReply (l : List Binding) : IgnoresReply (resetEach l) :=
  .foldl (fun b : Binding => pReset_ignoresReply b.periph) l

theorem resetEach_instancesOnly (l : List Binding) (s : State) : InstancesOnly s (resetEach l s) :=
  foldl_relates (R := InstancesOnly) (fun _ => rfl) .trans (fun t (b : Binding) => pReset_instancesOnly b.periph t) l s

theorem pReset_periphExists (p q : PeriphRef) (s : State) : periphExists (pReset q s) p = periphExists s p :=
  (pReset_devicesOnly q s).wiringKept.periphExists_eq p

/-- Every peripheral of the list is at its reset values after the loop: its own reset puts it there, and the later ones
leave it there. -/
theorem resetEach_atReset : ∀ (l : List Binding) (s : State), (∀ b ∈ l, periphExists s b.periph = true) →
    ∀ b ∈ l, AtReset (resetEach l s) b.periph
  | [], _, _ => nofun
  | b :: rest, s, h => by
    obtain ⟨hb, hrest⟩ := List.forall_mem_cons.mp h
    refine List.forall_mem_cons.mpr ⟨?_, resetEach_atReset rest (pReset b.periph s) fun x hx => ?_⟩
    · exact foldl_keeps (P := (AtReset · b.periph)) (fun _ (x : Binding) ht => ht.pReset x.periph) rest _
        (pReset_atReset hb)
    · rw [pReset_periphExists]
      exact hrest x hx

/-- The reset operations of a list of bindings, one after another, are the loop over the contract's resets, up to the
last reply. -/
theorem runAll_resets : ∀ (l : List Binding) (s : State), (∀ b ∈ l, periphExists s b.periph = true) →
    ∃ replies r, runAll (l.map fun b => resetOp b.periph) s =
      some (replies, withReply r (resetEach l s))
  | [], s, _ => ⟨[], s.reply, rfl⟩
  | b :: rest, s, h => by
    obtain ⟨hb, hrest⟩ := List.forall_mem_cons.mp h
    obtain ⟨replies, r, hrun⟩ := runAll_resets rest (withReply .unit (pReset b.periph s)) fun x hx =>
      (pReset_periphExists x.periph b.periph s).trans (hrest x hx)
    rw [resetEach_ignoresReply, withReply_withReply] at hrun
    exact ⟨_, r, runAll_of_next (exec_resetOp hb) hrun⟩

/-- Settles O58: the resets are the loop over the bindings, which touches the instances alone and leaves the bound ones
at their reset values. -/
theorem systemResetResetsWhatIsBound : Obligations.SystemResetResetsWhatIsBound := by
  intro s hexist
  obtain ⟨replies, r, hrun⟩ := runAll_resets s.hub.bindings s hexist
  obtain ⟨hrtr, hhub, henv, hevents⟩ := (resetEach_instancesOnly s.hub.bindings s).kept
  have hreset := resetEach_atReset s.hub.bindings s hexist
  refine ⟨replies, _, hrun, hrtr, hhub, henv, fun b hb i hi => ?_, fun b hb i hi => ?_, ?_⟩
  · have hvia := hreset b hb
    rw [hi] at hvia
    obtain ⟨_, hv, rfl⟩ := hvia
    exact hv
  · have hacia := hreset b hb
    rw [hi] at hacia
    obtain ⟨_, ha, before, rfl⟩ := hacia
    exact ⟨_, ha, rfl, rfl, rfl, rfl, rfl⟩
  · rw [exec_sysReset, hevents]
    rfl

end Sys2Proof.Machine
end

section
/-! SUPPORT. `SYS.ATTACH` and `SYS.DETACH` (R306, R307, D4): both halves of the map at once. -/

namespace Sys2Proof.Machine

/-! ## Attaching -/

/-- `SYS.ATTACH` with an error of the admission changes nothing but the reply (R306, R320). -/
theorem exec_sysAttach_error {s : State} {name : String} {start stop : Nat} {p : PeriphRef} {e : OpError}
    (hp : periphExists s p = true) (h : admissionError s.hub start stop name = some e) :
    exec (.sysAttach name start stop p) s = .next { s with reply := .error e } := by
  simp only [exec, execSysAttach, onPeriph_eq hp, h, raise_eq]

/-- An admitted `SYS.ATTACH` inserts the binding and maps the region (R306). -/
theorem exec_sysAttach_admitted {s : State} {name : String} {start stop : Nat} {p : PeriphRef}
    (hp : periphExists s p = true) (h : admissionError s.hub start stop name = none) :
    exec (.sysAttach name start stop p) s = .next { s with
      hub := withBinding s.hub { name := name, start := start, stop := stop, periph := p }
      rtr := withIo start stop p s.rtr
      reply := .unit } := by
  simp only [exec, execSysAttach, onPeriph_eq hp, h, finish_eq]

/-- `RTR.MAPIO` of a range that is not inverted maps the region (R132). -/
theorem exec_rtrMapIo_of_le {s : State} {start stop : Nat} {p : PeriphRef} (hp : periphExists s p = true)
    (hle : start ≤ stop) : exec (.rtrMapIo start stop p) s = .next { s with
      rtr := withIo start stop p s.rtr
      reply := .unit } := by
  simp only [exec, execRtrMapIo, onPeriph_eq hp, if_neg (Nat.not_lt.mpr hle), finish_eq]

/-- Settles O59: both operations ask the same admission, which an inverted range does not pass; so the region of an
admitted binding is always mapped. -/
theorem attachRegistersThenMaps : Obligations.AttachRegistersThenMaps := by
  intro s name start stop p hp
  refine ⟨fun e h => ?_, fun t h hunit => ?_, fun hle hfree => ?_⟩
  · obtain ⟨-, ⟨e', hadm, hs⟩ | ⟨-, hs⟩⟩ := execHubRegister_next h
    · obtain rfl : e = e' := by simpa using congrArg State.reply hs
      exact exec_sysAttach_error hp hadm
    · cases congrArg State.reply hs
  · have hpt : periphExists t p = true := ((exec_constructionKept h).periphExists_eq p).trans hp
    obtain ⟨-, ⟨e, -, rfl⟩ | ⟨hadm, rfl⟩⟩ := execHubRegister_next h
    · cases hunit
    · obtain ⟨hle, -, -⟩ := admissionError_eq_none hadm
      rw [exec_sysAttach_admitted hp hadm, exec_rtrMapIo_of_le hpt hle]
  · have hadm := admissionError_of_admitted hle hfree
    refine ⟨_, exec_sysAttach_admitted hp hadm, rfl, ?_, mem_withIo.mpr (.inl rfl)⟩
    exact (mem_insertByKey _ _ _ _).mpr (.inl rfl)

/-! ## Detaching -/

theorem find?_name_eq_none {l : List Binding} {name : String} (h : ∀ b ∈ l, b.name ≠ name) :
    l.find? (fun b => b.name == name) = none := by
  simpa using h

/-- The search for a bound name finds its one binding (R27). -/
theorem find?_name_eq_some {h : Hub} (hwf : hubWf h) {b : Binding} (hb : b ∈ h.bindings) :
    h.bindings.find? (fun c => c.name == b.name) = some b := by
  cases hfind : h.bindings.find? (fun c => c.name == b.name) with
  | none => simpa using List.find?_eq_none.mp hfind b hb
  | some c =>
    have hname : c.name = b.name := by simpa using List.find?_some hfind
    rw [binding_eq_of_name hwf (List.mem_of_find?_eq_some hfind) hb hname]

theorem exec_sysDetach_absent {s : State} {name : String}
    (h : s.hub.bindings.find? (fun b => b.name == name) = none) :
    exec (.sysDetach name) s = .next { s with reply := .unit } := by
  simp only [exec, execSysDetach, h, finish_eq]

/-- `SYS.DETACH` of a bound name takes out the bindings of that name and the regions of its range (R307). -/
theorem exec_sysDetach_bound {s : State} {name : String} {b : Binding}
    (h : s.hub.bindings.find? (fun b => b.name == name) = some b) :
    exec (.sysDetach name) s = .next { s with
      rtr := { s.rtr with ios := s.rtr.ios.filter (fun g => !(g.start == b.start && g.stop == b.stop)) }
      hub := withoutBinding s.hub name
      reply := .unit } := by
  simp only [exec, execSysDetach, h, finish_eq]

/-- Settles O60: the name finds its one binding, and the two filters keep the other bindings and the regions of other
ranges. -/
theorem detachRemovesBindingAndRegion : Obligations.DetachRemovesBindingAndRegion := by
  intro s name
  refine ⟨fun habsent => exec_sysDetach_absent (find?_name_eq_none habsent), ?_⟩
  rintro hwf b hb rfl
  exact ⟨_, _, exec_sysDetach_bound (find?_name_eq_some hwf hb), fun x => by simp,
    fun g => by simp [imp_iff_not_or]⟩

end Sys2Proof.Machine
end

section
/-! SUPPORT. The two source sets under every operation (R280 to R285, R327): who changes the IRQ set and who the NMI
set. -/

namespace Sys2Proof.Machine

/-! ## One source in or out of one set leaves the other set alone -/

theorem raiseIrq_nmi (src : Source) (s : State) : (raiseIrq src s).agg.nmi = s.agg.nmi := by rw [raiseIrq_agg]

theorem dropIrq_nmi (src : Source) (s : State) : (dropIrq src s).agg.nmi = s.agg.nmi := by rw [dropIrq_agg]

theorem raiseNmi_irq (src : Source) (s : State) : (raiseNmi src s).agg.irq = s.agg.irq := by rw [raiseNmi_agg]

theorem dropNmi_irq (src : Source) (s : State) : (dropNmi src s).agg.irq = s.agg.irq := by rw [dropNmi_agg]

/-! ## The instructions -/

/-- A bus write is the engine's one access, which leaves both source sets alone (R305). -/
theorem busWriteAt_agg (addr v : Nat) (s : State) : (busWriteAt addr v s).agg = s.agg :=
  runAccesses_agg [.write addr v] s

/-- An operation keeps both source sets if the state it ends in has those it began with. -/
theorem finish_agg {s u t : State} {r : Reply} (h : finish u r = .next t) (hu : u.agg = s.agg) : t.agg = s.agg := by
  rw [finish_next h]
  exact hu

/-- A `SYS.STEP` may update the IRQ set; it never reaches the NMI set, halted or not (D39). -/
theorem execSysStep_nmi {l : List Access} {c : Nat} {s t : State} (h : execSysStep l c s = .next t) :
    t.agg.nmi = s.agg.nmi := by
  have hrun : (runAccesses l s).2.agg.nmi = s.agg.nmi := congrArg Agg.nmi (runAccesses_agg l s)
  obtain ⟨-, rfl⟩ | ⟨-, rfl⟩ := execSysStep_next h
  · exact hrun
  · exact (afterEngine_nmi c _).trans hrun

/-- An operation that names neither set keeps both: no tick, register access or report drives the aggregator. -/
theorem exec_agg {i : Instr} {s t : State} (hirq : mayChangeIrqSet i = false) (hnmi : mayChangeNmiSet i = false)
    (h : exec i s = .next t) : t.agg = s.agg := by
  cases hi : reachesOnlyDevices i with
  | true =>
    obtain ⟨u, r, hu, ht⟩ := exec_devices hi h
    rw [ht, devicesOnly_agg hu]
  | false =>
    cases i with
    | aggTrigIrq | aggClrIrq | aggUpdate | aggReset | sysStep | sysReset => cases hirq
    | aggTrigNmi | aggClrNmi => cases hnmi
    | busWrite addr v => exact finish_agg h (busWriteAt_agg addr v s)
    | rtrConfigRam | rtrLoadRom | rtrClearRam | hubUnregister => exact finish_agg h rfl
    | rtrMapIo => obtain ⟨-, ⟨-, rfl⟩ | ⟨-, rfl⟩⟩ := execRtrMapIo_next h <;> rfl
    | hubRegister => obtain ⟨-, ⟨_, -, rfl⟩ | ⟨-, rfl⟩⟩ := execHubRegister_next h <;> rfl
    | sysAttach => obtain ⟨-, ⟨_, -, rfl⟩ | ⟨-, rfl⟩⟩ := execSysAttach_next h <;> rfl
    | sysDetach => obtain ⟨_, -, rfl⟩ | ⟨-, rfl⟩ := execSysDetach_next h <;> rfl
    | _ => cases hi

/-- Settles O13: an operation that names one set keeps the other, and one that names neither keeps both. -/
theorem sourceSetsChangeOnlyByInterruptOperations : Obligations.SourceSetsChangeOnlyByInterruptOperations := by
  intro i s t h
  cases i with
  | aggReset | sysReset => exact ⟨nofun, nofun⟩
  | aggTrigIrq src =>
    rw [finish_next h]
    exact ⟨nofun, fun _ => raiseIrq_nmi src s⟩
  | aggClrIrq src =>
    rw [finish_next h]
    exact ⟨nofun, fun _ => dropIrq_nmi src s⟩
  | aggUpdate names =>
    rw [finish_next h]
    exact ⟨nofun, fun _ => aggUpdateAll_nmi names s⟩
  | sysStep => exact ⟨nofun, fun _ => execSysStep_nmi h⟩
  | aggTrigNmi src =>
    rw [finish_next h]
    exact ⟨fun _ => raiseNmi_irq src s, nofun⟩
  | aggClrNmi src =>
    rw [finish_next h]
    exact ⟨fun _ => dropNmi_irq src s, nofun⟩
  | _ =>
    have hkept := exec_agg rfl rfl h
    exact ⟨fun _ => congrArg Agg.irq hkept, fun _ => congrArg Agg.nmi hkept⟩

end Sys2Proof.Machine
end
